-- ==== Sys2Proof/Word.lean ====
section
/-! DEFINITION. The widths of the block's quantities (00_scope.md R3 and section 6): every quantity is an
unsigned value of a fixed number of bits. -/

namespace Sys2Proof

/-- A bus datum, a cell of the Linear Store, the button snapshot: the spec's `u8`. -/
abbrev Byte := BitVec 8

/-- A bus address: the spec's `u16`. -/
abbrev Addr := BitVec 16

/-- The result of a word read and the `info` of a fault: the spec's `u16`. -/
abbrev Half := BitVec 16

/-- A Picture Unit register number: the spec's `u3`. -/
abbrev RegNum := BitVec 3

/-- A command word `W` or a response word `Q`: the spec's `u32`. -/
abbrev CommandWord := BitVec 32

end Sys2Proof
end

