-- ==== Sys2Proof/Config.lean ====
section
/-! DEFINITION. The block's constants (00_scope.md R3: "every size is a literal") and the two free values:
the bytes the Picture Unit and the Mapper answer (00_scope.md R8, 92_eei_decisions.md D9). -/

namespace Sys2Proof.Config

/-- `RAM_CAP`: capacity of the Linear Store in bytes (R3). -/
abbrev ramCap : Nat := 0x800

/-- `RAM_TOP`: last address of the Linear Store region (R3). -/
abbrev ramTop : Addr := 0x1FFF#16

/-- `PPU_BASE`: first address of the Picture Unit register region (R3). -/
abbrev ppuBase : Addr := 0x2000#16

/-- `PPU_TOP`: last address of that region (R3). -/
abbrev ppuTop : Addr := 0x3FFF#16

/-- `PPU_NREG`: registers in the mirrored window (R3). -/
abbrev ppuNReg : Nat := 8

/-- `IO_TOP`: last address of the Audio/IO region, which begins right after `PPU_TOP` (R3). -/
abbrev ioTop : Addr := 0x4017#16

/-- `TEST_TOP`: last address of the test-mode region, which begins right after `IO_TOP` (R3). -/
abbrev testTop : Addr := 0x401F#16

/-- `MAP_TOP`: last address of the Mapper region, which begins right after `TEST_TOP` (R3). -/
abbrev mapTop : Addr := 0xFFFE#16

/-- `INVALID_ADDR`: the one address classified invalid (R3). -/
abbrev invalidAddr : Addr := 0xFFFF#16

/-- `NBUTTON`: legal button indices are 0 to 7 (R3). -/
abbrev nButton : Nat := 8

/-- `CURSOR_MAX`: value at which the cursor saturates (R3). -/
abbrev cursorMax : Nat := 8

/-- FREE VALUE: the byte the Picture Unit answers to a read of a register at the `n`-th delegated access,
where `State.env` names no answer. "not specified further here": any `u8` (R8, R83; log entry 6). -/
opaque ppuAnswer : Nat → RegNum → Byte

/-- FREE VALUE: the byte the Mapper answers to a read of an address at the `n`-th delegated access, where
`State.env` names no answer. Any `u8` (R8, R85; log entry 6). -/
opaque mapAnswer : Nat → Addr → Byte

end Sys2Proof.Config
end

