-- ==== Sys2Proof/Machine/State.lean ====
section
/-! DEFINITION. Everything the spec gives the machine (10_state.md), the observable record (00_scope.md R7),
the inputs of the step relation (00_scope.md R8) and the reasons a step can stop. Plain data throughout. -/

namespace Sys2Proof.Machine

/-! ## The Linear Store -/

/-- The Linear Store (10_state.md R12): its cells as (index, byte) pairs in one canonical form, indices
strictly rising and below 0x800, no entry equal to 0x00, which is what an unlisted index reads as
(every cell is 0x00 at reset, R25). `Memory.wf` in Machine/Ops.lean says the form. -/
abbrev Memory := List Host.Cell

/-! ## Faults of the block -/

/-- The causes of 60_exceptions.md R90. -/
inductive Cause where
  /-- Code 1: an access to 0x4000 to 0x401F (R91). -/
  | unimplementedRegion
  /-- Code 2: an access to 0xFFFF (R92). -/
  | invalidAddress
  /-- Code 3: a reference that does not resolve (R93). -/
  | unresolvedReference
  /-- Code 4: a button index above 7 (R94). -/
  | buttonIndex
  /-- Code 5: a store index of 0x800 or more (R95); never raised (40_linear_store.md R68). -/
  | storeBounds
deriving DecidableEq, Repr

/-- The `comp` column of R90. -/
inductive Comp where
  | none
  | ppu
  | mapper
deriving DecidableEq, Repr

/-- What a `raise Fault(cause, info, comp)` carries (00_scope.md section 6, Faults). -/
structure FaultInfo where
  cause : Cause
  info : Half
  comp : Comp
deriving DecidableEq, Repr

/-- The `fault` record at its widths (10_state.md R17, R22). `cause`, `comp` and `info` are meaningless
while `valid` is false: no meaning reads them. -/
structure FaultRecord where
  valid : Bool
  cause : BitVec 3
  comp : BitVec 2
  info : Half
deriving DecidableEq, Repr

/-! ## Wiring -/

/-- The three externally owned components (10_state.md R13). -/
inductive Component where
  | processor
  | pictureUnit
  | mapper
deriving DecidableEq, Repr

/-- `ref_cpu`, `ref_ppu`, `ref_map`: the component each reference is bound to (10_state.md R13). Fixed at
construction; no rule reads the binding, resolution samples the availability lines instead (R87, R88;
log entry 11). -/
structure References where
  cpu : Component
  ppu : Component
  map : Component
deriving DecidableEq, Repr

/-! ## The observable record -/

/-- The events on the component-side ports (00_scope.md R7). -/
inductive Event where
  | ppuRead (reg : RegNum)
  | ppuWrite (reg : RegNum) (v : Byte)
  | mapRead (a : Addr)
  | mapWrite (a : Addr) (v : Byte)
deriving DecidableEq, Repr

/-- The value of an `OK` outcome (00_scope.md R6). -/
inductive Value where
  /-- "absent for the other four". -/
  | absent
  /-- A `u8`, of `read_byte`. -/
  | byte (v : Byte)
  /-- A `u16`, of `read_word`. -/
  | word (v : Half)
  /-- A `u1`, of `read`. -/
  | bit (v : BitVec 1)
deriving DecidableEq, Repr

/-- The three outcomes of an operation, as the spec names them (00_scope.md R6). All three are recorded in
`State.outcomes` and leave the machine in a next state (log entry 3). -/
inductive Result where
  /-- `OK(value)`. -/
  | ok (v : Value)
  /-- `FAULT(cause, info, comp)`: the block recorded the fault and halted. -/
  | fault (f : FaultInfo)
  /-- `REFUSED`: the block was halted, or the word spells no operation; nothing changed. -/
  | refused
deriving DecidableEq, Repr

/-! ## The environment -/

/-- What the environment offers at one delegated byte access (00_scope.md R8): whether each of the two
references resolves at that moment, and the byte each component would answer to a read. -/
structure Moment where
  availPpu : Bool
  availMap : Bool
  ppuByte : Byte
  mapByte : Byte
deriving DecidableEq, Repr

/-! ## The state -/

/-- The machine. The first six fields are the block's state (10_state.md R12 to R17), the next two the
observable record (00_scope.md R6, R7), the last three the inputs of the step relation (R5, R8), which the
block reads in order and never writes otherwise. -/
structure State where
  ram : Memory
  snapshot : Byte
  cursor : BitVec 4
  strobe : Bool
  fault : FaultRecord
  refs : References
  /-- Component-side events, oldest first. -/
  events : List Event
  /-- Outcomes returned to the agents, oldest first. -/
  outcomes : List Result
  /-- Command words issued and not yet performed, next first: the interleaving of the two agents'
  operations (log entry 1). -/
  commands : List CommandWord
  /-- The environment at the next delegated byte accesses, next first (log entry 5). -/
  env : List Moment
  /-- Delegated byte accesses made so far: what the free values are applied to (log entry 6). -/
  draws : Nat
deriving DecidableEq, Repr

/-- The references as construction binds them (10_state.md R25). -/
def References.bound : References := { cpu := .processor, ppu := .pictureUnit, map := .mapper }

/-- The fault record at reset: `valid` is 0; the spec leaves the other fields unspecified (10_state.md R25)
and the model has them zero (log entry 7). -/
def FaultRecord.clear : FaultRecord := { valid := false, cause := 0, comp := 0, info := 0 }

/-- The machine right after reset, which is construction (10_state.md R25; 70_reset_and_hazards.md R109),
with nothing issued and nothing said of the environment (log entries 1, 4, 5, 6). -/
def State.reset : State :=
  { ram := [], snapshot := 0x00, cursor := 0, strobe := false, fault := FaultRecord.clear
    refs := References.bound, events := [], outcomes := [], commands := [], env := [], draws := 0 }

/-! ## How an operation ends -/

/-- How a part of an operation ends: with a value, or at a `raise` (00_scope.md section 6, Faults: "Nothing
after a `raise` in a pseudocode body is executed"). Both carry the state reached, since a word read keeps
the event of a low byte that succeeded (60_exceptions.md R97). -/
inductive Access (α : Type) where
  | done (v : α) (s : State)
  | raised (f : FaultInfo) (s : State)
deriving DecidableEq, Repr

/-! ## Why a step stops -/

/-- Why the machine stops. The spec's own fatal conditions are not here: fault entry is described
(60_exceptions.md R96) and gives a next state. -/
inductive Fault where
  /-- Raised by `step` alone, when no operation has been issued: the block does nothing of its own
  (10_state.md R10), so there is no step to take and the run ends here. Safe: the machine stops where the
  hardware waits (log entry 2). -/
  | noCommand
deriving DecidableEq, Repr

/-- Why an instruction has no meaning. -/
inductive Refusal where
  /-- Raised by an arm of `exec` whose instruction has no meaning yet: no arm is left in that state. Safe:
  the machine stops where the hardware goes on. -/
  | notModelled (mnemonic : String)
deriving DecidableEq, Repr

end Sys2Proof.Machine
end

