-- ==== Sys2Proof/Machine/Operands.lean ====
section
/-! DEFINITION. What an address means: the classifier (20_memory.md R28 to R30), the transform of each class
(R31, R33, R52), the address formats and match/mask rows (30_encoding.md R54 to R58), and the button mask. -/

namespace Sys2Proof.Machine

/-! ## Classes -/

/-- The six classes of 20_memory.md R28. -/
inductive Region where
  | ram
  | ppu
  | apuio
  | test
  | mapper
  | invalid
deriving DecidableEq, Repr

/-- The class code (30_encoding.md R58). -/
def Region.code : Region → BitVec 3
  | .ram => 0
  | .ppu => 1
  | .apuio => 2
  | .test => 3
  | .mapper => 4
  | .invalid => 5

/-- The total classifier of 20_memory.md R29: range tests in the order the source gives them, unsigned
comparisons (R52). -/
def classify (a : Addr) : Region :=
  if a ≤ Config.ramTop then .ram
  else if a ≤ Config.ppuTop then .ppu
  else if a ≤ Config.ioTop then .apuio
  else if a ≤ Config.testTop then .test
  else if a ≤ Config.mapTop then .mapper
  else .invalid

/-! ## Transforms -/

/-- `index = a mod 0x0800` (20_memory.md R31). -/
def storeIndex (a : Addr) : Nat := a.toNat % Config.ramCap

/-- `reg = (a − 0x2000) mod 8` (20_memory.md R33). -/
def ppuReg (a : Addr) : RegNum := BitVec.ofNat 3 ((a - Config.ppuBase).toNat % Config.ppuNReg)

/-- The second address of a word read, `(a + 1) mod 2^16` (20_memory.md R52 (c)). -/
def nextAddr (a : Addr) : Addr := a + 1

/-- The word result, `(zext_16(high) << 8) | zext_16(low)` (20_memory.md R52 (d)). -/
def joinBytes (high low : Byte) : Half := (high.setWidth 16 <<< 8) ||| low.setWidth 16

/-! ## The gate-level decoder (20_memory.md R30) -/

/-- `in_4000_401F = (a[15:5] == 0b01000000000)`. -/
def inIoBlock (a : Addr) : Bool := a.extractLsb' 5 11 == 0b01000000000#11

/-- The select line of a class, in address bits (R30). -/
def selectLine (a : Addr) : Region → Bool
  | .ram => a.extractLsb' 13 3 == 0b000#3
  | .ppu => a.extractLsb' 13 3 == 0b001#3
  | .apuio => inIoBlock a && a.extractLsb' 3 2 != 0b11#2
  | .test => inIoBlock a && a.extractLsb' 3 2 == 0b11#2
  | .invalid => a == 0xFFFF#16
  | .mapper =>
    !(a.extractLsb' 13 3 == 0b000#3 || a.extractLsb' 13 3 == 0b001#3 || inIoBlock a || a == 0xFFFF#16)

/-! ## Address formats (30_encoding.md R54 to R57) -/

/-- The formats. -/
inductive AddrFormat where
  /-- `A-RAM` (R54). -/
  | aRam
  /-- `A-PPU` (R55). -/
  | aPpu
  /-- `A-IO` (R56). -/
  | aIo
  /-- `A-MAP` (R57). -/
  | aMap
deriving DecidableEq, Repr

/-- The format of a class's addresses (R54 to R57). -/
def Region.format : Region → AddrFormat
  | .ram => .aRam
  | .ppu => .aPpu
  | .apuio => .aIo
  | .test => .aIo
  | .mapper => .aMap
  | .invalid => .aMap

/-- `index`, bits 10:0 of format `A-RAM` (R54). -/
def ramIndexField (a : Addr) : BitVec 11 := a.extractLsb' 0 11

/-- `image`, bits 12:11 of format `A-RAM`: selects nothing (R54). -/
def ramImageField (a : Addr) : BitVec 2 := a.extractLsb' 11 2

/-- `reg`, bits 2:0 of format `A-PPU` (R55). -/
def ppuRegField (a : Addr) : RegNum := a.extractLsb' 0 3

/-- `image`, bits 12:3 of format `A-PPU`: selects nothing (R55). -/
def ppuImageField (a : Addr) : BitVec 10 := a.extractLsb' 3 10

/-- One row of the address map as match and mask (R57). -/
structure MapRow where
  region : Region
  matchBits : Addr
  mask : Addr
deriving DecidableEq, Repr

/-- `a & mask == match`. -/
def MapRow.matches (r : MapRow) (a : Addr) : Bool := a &&& r.mask == r.matchBits

/-- The rows of R57 below 0x4020. -/
def lowMapRows : List MapRow :=
  [ ⟨.ram, 0x0000#16, 0xE000#16⟩, ⟨.ppu, 0x2000#16, 0xE000#16⟩, ⟨.apuio, 0x4000#16, 0xFFF0#16⟩,
    ⟨.apuio, 0x4010#16, 0xFFF8#16⟩, ⟨.test, 0x4018#16, 0xFFF8#16⟩ ]

/-- The rows of R57 from 0x4020 to 0xDFFF. -/
def midMapRows : List MapRow :=
  [ ⟨.mapper, 0x4020#16, 0xFFE0#16⟩, ⟨.mapper, 0x4040#16, 0xFFC0#16⟩, ⟨.mapper, 0x4080#16, 0xFF80#16⟩,
    ⟨.mapper, 0x4100#16, 0xFF00#16⟩, ⟨.mapper, 0x4200#16, 0xFE00#16⟩, ⟨.mapper, 0x4400#16, 0xFC00#16⟩,
    ⟨.mapper, 0x4800#16, 0xF800#16⟩, ⟨.mapper, 0x5000#16, 0xF000#16⟩, ⟨.mapper, 0x6000#16, 0xE000#16⟩,
    ⟨.mapper, 0x8000#16, 0xC000#16⟩, ⟨.mapper, 0xC000#16, 0xE000#16⟩ ]

/-- The rows of R57 from 0xE000 up. -/
def highMapRows : List MapRow :=
  [ ⟨.mapper, 0xE000#16, 0xF000#16⟩, ⟨.mapper, 0xF000#16, 0xF800#16⟩, ⟨.mapper, 0xF800#16, 0xFC00#16⟩,
    ⟨.mapper, 0xFC00#16, 0xFE00#16⟩, ⟨.mapper, 0xFE00#16, 0xFF00#16⟩, ⟨.mapper, 0xFF00#16, 0xFF80#16⟩,
    ⟨.mapper, 0xFF80#16, 0xFFC0#16⟩, ⟨.mapper, 0xFFC0#16, 0xFFE0#16⟩, ⟨.mapper, 0xFFE0#16, 0xFFF0#16⟩,
    ⟨.mapper, 0xFFF0#16, 0xFFF8#16⟩, ⟨.mapper, 0xFFF8#16, 0xFFFC#16⟩, ⟨.mapper, 0xFFFC#16, 0xFFFE#16⟩,
    ⟨.mapper, 0xFFFE#16, 0xFFFF#16⟩, ⟨.invalid, 0xFFFF#16, 0xFFFF#16⟩ ]

/-- The thirty rows of R57. -/
def mapRows : List MapRow := lowMapRows ++ midMapRows ++ highMapRows

/-! ## Buttons -/

/-- `1 << index` as a `u8` (42_peripheral_ops.md R79, R80). -/
def buttonMask (index : Nat) : Byte := 1#8 <<< index

end Sys2Proof.Machine
end

