-- ==== Sys2Proof/Machine/Flags.lean ====
section
/-! DEFINITION. The peripheral's status computations: the bit law (42_peripheral_ops.md R76), the cursor's
next value (R77, R78), the snapshot's next value (R79, R80), and "halted" (60_exceptions.md R96). The block
has no arithmetic flag (10_state.md R21). -/

namespace Sys2Proof.Machine

/-- `bit(s, c) = (s >> c) & 1`, the shift defined for every `c`, 0 from 8 on (42_peripheral_ops.md R76;
92_eei_decisions.md D23 for 9 to 15). -/
def snapshotBit (snapshot : Byte) (cursor : BitVec 4) : BitVec 1 := (snapshot >>> cursor.toNat).setWidth 1

/-- `min(cursor + 1, 8)` (R78). -/
def cursorAdvanced (cursor : BitVec 4) : BitVec 4 := BitVec.ofNat 4 (min (cursor.toNat + 1) Config.cursorMax)

/-- The cursor after `read`: advanced, then forced to 0 while the strobe is high (R78). -/
def cursorAfterRead (strobe : Bool) (cursor : BitVec 4) : BitVec 4 :=
  if strobe then 0 else cursorAdvanced cursor

/-- The cursor after `write_strobe(on)`: 0 by the level written, not by an edge (R77). -/
def cursorAfterStrobe (on : Bool) (cursor : BitVec 4) : BitVec 4 := if on then 0 else cursor

/-- `snapshot | (1 << index)` (R79). -/
def snapshotPressed (snapshot : Byte) (index : Nat) : Byte := snapshot ||| buttonMask index

/-- `snapshot & ~(1 << index)` (R80). -/
def snapshotReleased (snapshot : Byte) (index : Nat) : Byte := snapshot &&& ~~~ buttonMask index

/-- The block is halted once a fault is recorded (60_exceptions.md R96). -/
def State.halted (s : State) : Bool := s.fault.valid

end Sys2Proof.Machine
end

