-- ==== Sys2Proof/Machine/Ops.lean ====
section
/-! DEFINITION. The named operations over the state: the Linear Store's cells, one update per field, taking a
fault, ending an operation, and the store's two primitives (40_linear_store.md). -/

namespace Sys2Proof.Machine

/-! ## Cells of the Linear Store -/

/-- What an unlisted cell reads as: every cell is 0x00 at reset (10_state.md R25). -/
def Memory.unlisted : Byte := 0x00#8

/-- The byte of a cell. -/
def Memory.read : Memory → Nat → Byte
  | [], _ => Memory.unlisted
  | (k, v) :: rest, i => if k = i then v else Memory.read rest i

/-- A cell put in front of later ones, unless it holds what an unlisted cell reads as. -/
def Memory.cons (i : Nat) (v : Byte) (rest : Memory) : Memory :=
  if v = Memory.unlisted then rest else (i, v) :: rest

/-- The cells after one is written, the canonical form kept. -/
def Memory.write : Memory → Nat → Byte → Memory
  | [], i, v => Memory.cons i v []
  | (k, w) :: rest, i, v =>
    if i < k then Memory.cons i v ((k, w) :: rest)
    else if i = k then Memory.cons i v rest
    else (k, w) :: Memory.write rest i v

/-- The canonical form from an index on: indices rising and below the capacity, no unlisted byte listed. -/
def Memory.wfFrom : Nat → Memory → Bool
  | _, [] => true
  | lo, (k, v) :: rest =>
    decide (lo ≤ k) && decide (k < Config.ramCap) && v != Memory.unlisted && Memory.wfFrom (k + 1) rest

/-- The canonical form of the Linear Store. -/
def Memory.wf (m : Memory) : Bool := Memory.wfFrom 0 m

/-! ## One update per field -/

def State.setRam (s : State) (m : Memory) : State := { s with ram := m }

def State.setSnapshot (s : State) (v : Byte) : State := { s with snapshot := v }

def State.setCursor (s : State) (c : BitVec 4) : State := { s with cursor := c }

def State.setStrobe (s : State) (on : Bool) : State := { s with strobe := on }

def State.setFault (s : State) (r : FaultRecord) : State := { s with fault := r }

def State.setCommands (s : State) (ws : List CommandWord) : State := { s with commands := ws }

/-- An event on a component-side port (00_scope.md R7). -/
def State.emit (s : State) (e : Event) : State := { s with events := s.events ++ [e] }

/-- An outcome returned to the agent (00_scope.md R6). -/
def State.respond (s : State) (r : Result) : State := { s with outcomes := s.outcomes ++ [r] }

/-- A delegated byte access has been made: the next one meets the environment's next moment. -/
def State.passMoment (s : State) : State := { s with env := s.env.tail, draws := s.draws + 1 }

/-! ## Ending part of an operation -/

/-- What follows a part that ended with a value; a `raise` ends the operation (00_scope.md section 6). -/
def Access.andThen {α β : Type} (x : Access α) (k : α → State → Access β) : Access β :=
  match x with
  | .done v s => k v s
  | .raised f s => .raised f s

/-- The value in the form the outcome carries it. -/
def Access.as {α : Type} (x : Access α) (form : α → Value) : Access Value :=
  x.andThen fun v s => .done (form v) s

/-! ## Taking a fault -/

/-- The cause code (60_exceptions.md R90). -/
def Cause.code : Cause → BitVec 3
  | .unimplementedRegion => 1
  | .invalidAddress => 2
  | .unresolvedReference => 3
  | .buttonIndex => 4
  | .storeBounds => 5

/-- The component code (60_exceptions.md R90). -/
def Comp.code : Comp → BitVec 2
  | .none => 0
  | .ppu => 1
  | .mapper => 2

/-- `{valid: 1, cause, comp, info}` (60_exceptions.md R96). -/
def FaultInfo.record (f : FaultInfo) : FaultRecord :=
  { valid := true, cause := f.cause.code, comp := f.comp.code, info := f.info }

/-- Fault entry (60_exceptions.md R96): the record is written, the outcome is `FAULT`, and the block is halted
from then on. Nothing else is saved and nothing else changes. `fault.valid` is 0 when this is called:
`perform` answers a halted block first (R98). There is no return from a fault (R98). -/
def State.takeFault (s : State) (f : FaultInfo) : State := (s.setFault f.record).respond (.fault f)

/-- The state an operation leaves, its outcome returned (00_scope.md R6). -/
def Access.finish : Access Value → State
  | .done v s => s.respond (.ok v)
  | .raised f s => s.takeFault f

/-- One operation: on a halted block its outcome is `REFUSED` and nothing else happens (60_exceptions.md R98);
otherwise its pseudocode body runs to completion (00_scope.md R4). -/
def perform (body : State → Access Value) (s : State) : Host.Outcome State Fault Refusal :=
  .next (if s.halted then s.respond .refused else (body s).finish)

/-! ## The Linear Store's primitives -/

/-- The fault of an index at or above the capacity (40_linear_store.md R66, R67; 60_exceptions.md R95). -/
def storeBounds (index : Nat) : FaultInfo := ⟨.storeBounds, BitVec.ofNat 16 index, .none⟩

/-- `Store.read(index)` (40_linear_store.md R66). -/
def storeRead (index : Nat) (s : State) : Access Byte :=
  if Config.ramCap ≤ index then .raised (storeBounds index) s else .done (s.ram.read index) s

/-- `Store.write(index, value)` (40_linear_store.md R67). -/
def storeWrite (index : Nat) (v : Byte) (s : State) : Access Unit :=
  if Config.ramCap ≤ index then .raised (storeBounds index) s
  else .done () (s.setRam (s.ram.write index v))

end Sys2Proof.Machine
end

