-- ==== Sys2Proof/Machine/Peripheral.lean ====
section
/-! DEFINITION. The Shift-Register Peripheral's operations `STB`, `RDS`, `PRS`, `RLS`
(42_peripheral_ops.md R76 to R82). -/

namespace Sys2Proof.Machine

/-- `write_strobe(on)` (R77). -/
def writeStrobe (on : Bool) (s : State) : Access Value :=
  .done .absent ((s.setStrobe on).setCursor (cursorAfterStrobe on s.cursor))

/-- `read()` (R78): the bit is taken from the live snapshot before the cursor moves (R82). -/
def readBit (s : State) : Access Value :=
  .done (.bit (snapshotBit s.snapshot s.cursor)) (s.setCursor (cursorAfterRead s.strobe s.cursor))

/-- "if index > 7 then raise Fault(BUTTON_INDEX, zext_16(index), NONE)" (R79, R80; 60_exceptions.md R94).
DESIGN CHOICE (log entry 10): the low 16 bits of an index of 256 or more, which no word spells. -/
def checkButton (index : Nat) (s : State) : Access Unit :=
  if index < Config.nButton then .done () s else .raised ⟨.buttonIndex, BitVec.ofNat 16 index, .none⟩ s

/-- `press(index)` (R79). -/
def press (index : Nat) (s : State) : Access Value :=
  (checkButton index s).andThen fun _ t => .done .absent (t.setSnapshot (snapshotPressed t.snapshot index))

/-- `release(index)` (R80). -/
def release (index : Nat) (s : State) : Access Value :=
  (checkButton index s).andThen fun _ t => .done .absent (t.setSnapshot (snapshotReleased t.snapshot index))

/-- `STB on` (R77). -/
def execStb (on : Bool) (s : State) : Host.Outcome State Fault Refusal := perform (writeStrobe on) s

/-- `RDS` (R78). -/
def execRds (s : State) : Host.Outcome State Fault Refusal := perform readBit s

/-- `PRS index` (R79). -/
def execPrs (index : Nat) (s : State) : Host.Outcome State Fault Refusal := perform (press index) s

/-- `RLS index` (R80). -/
def execRls (index : Nat) (s : State) : Host.Outcome State Fault Refusal := perform (release index) s

end Sys2Proof.Machine
end

