-- ==== Sys2Proof/Machine/Ports.lean ====
section
/-! DEFINITION. The router's component-side ports: the resolve-or-fail rule (43_component_ports.md R87) and
the four delegated accesses (R83 to R86), with the environment's inputs (00_scope.md R8). -/

namespace Sys2Proof.Machine

/-! ## The environment at the next delegated byte access -/

/-- `avail_ppu`, sampled at the access. Where `State.env` says nothing more, the line is at the level
70_reset_and_hazards.md R111 gives it (log entry 5). -/
def State.availPpu (s : State) : Bool :=
  match s.env with
  | [] => true
  | m :: _ => m.availPpu

/-- `avail_map`, sampled likewise. -/
def State.availMap (s : State) : Bool :=
  match s.env with
  | [] => true
  | m :: _ => m.availMap

/-- The byte the Picture Unit answers to a read of `reg` now: any `u8` (R83). -/
def State.ppuAnswer (s : State) (reg : RegNum) : Byte :=
  match s.env with
  | [] => Config.ppuAnswer s.draws reg
  | m :: _ => m.ppuByte

/-- The byte the Mapper answers to a read of `a` now: any `u8` (R85). -/
def State.mapAnswer (s : State) (a : Addr) : Byte :=
  match s.env with
  | [] => Config.mapAnswer s.draws a
  | m :: _ => m.mapByte

/-! ## Resolution -/

/-- `resolve(PPU)` for the bus address `a` of the byte access being made (R87). -/
def resolvePpu (a : Addr) (s : State) : Access Unit :=
  if s.availPpu then .done () s else .raised ⟨.unresolvedReference, a, .ppu⟩ s

/-- `resolve(MAPPER)` (R87). -/
def resolveMapper (a : Addr) (s : State) : Access Unit :=
  if s.availMap then .done () s else .raised ⟨.unresolvedReference, a, .mapper⟩ s

/-! ## The delegated accesses -/

/-- `Ppu.read_register(reg)` (R83). -/
def ppuReadRegister (reg : RegNum) (s : State) : Access Byte :=
  .done (s.ppuAnswer reg) (s.emit (.ppuRead reg)).passMoment

/-- `Ppu.write_register(reg, value)` (R84). -/
def ppuWriteRegister (reg : RegNum) (v : Byte) (s : State) : Access Unit :=
  .done () (s.emit (.ppuWrite reg v)).passMoment

/-- `Mapper.read_byte(address)` (R85). -/
def mapperReadByte (a : Addr) (s : State) : Access Byte :=
  .done (s.mapAnswer a) (s.emit (.mapRead a)).passMoment

/-- `Mapper.write_byte(address, value)` (R86). -/
def mapperWriteByte (a : Addr) (v : Byte) (s : State) : Access Unit :=
  .done () (s.emit (.mapWrite a v)).passMoment

end Sys2Proof.Machine
end

