-- ==== Sys2Proof/Machine/Router.lean ====
section
/-! DEFINITION. The Bus Router's operations `RDB`, `WRB`, `RDW` (41_router_ops.md R69 to R73). -/

namespace Sys2Proof.Machine

/-- `UNIMPLEMENTED_REGION` at a byte address (20_memory.md R35, R36). -/
def unimplementedRegion (a : Addr) : FaultInfo := ⟨.unimplementedRegion, a, .none⟩

/-- `INVALID_ADDRESS` at a byte address (20_memory.md R38). -/
def invalidAddress (a : Addr) : FaultInfo := ⟨.invalidAddress, a, .none⟩

/-- `read_byte(a)` (R69). -/
def readByte (a : Addr) (s : State) : Access Byte :=
  match classify a with
  | .ram => storeRead (storeIndex a) s
  | .ppu => (resolvePpu a s).andThen fun _ t => ppuReadRegister (ppuReg a) t
  | .apuio => .raised (unimplementedRegion a) s
  | .test => .raised (unimplementedRegion a) s
  | .mapper => (resolveMapper a s).andThen fun _ t => mapperReadByte a t
  | .invalid => .raised (invalidAddress a) s

/-- `write_byte(a, v)` (R70). -/
def writeByte (a : Addr) (v : Byte) (s : State) : Access Unit :=
  match classify a with
  | .ram => storeWrite (storeIndex a) v s
  | .ppu => (resolvePpu a s).andThen fun _ t => ppuWriteRegister (ppuReg a) v t
  | .apuio => .raised (unimplementedRegion a) s
  | .test => .raised (unimplementedRegion a) s
  | .mapper => (resolveMapper a s).andThen fun _ t => mapperWriteByte a v t
  | .invalid => .raised (invalidAddress a) s

/-- `read_word(a)` (R71): low byte, then high byte (R72), each classified on its own (R73). -/
def readWord (a : Addr) (s : State) : Access Half :=
  (readByte a s).andThen fun low t =>
    (readByte (nextAddr a) t).andThen fun high u => .done (joinBytes high low) u

/-- `RDB a` (R69). -/
def execRdb (a : Addr) (s : State) : Host.Outcome State Fault Refusal :=
  perform (fun t => (readByte a t).as .byte) s

/-- `WRB a, v` (R70). -/
def execWrb (a : Addr) (v : Byte) (s : State) : Host.Outcome State Fault Refusal :=
  perform (fun t => (writeByte a v t).as fun _ => .absent) s

/-- `RDW a` (R71). -/
def execRdw (a : Addr) (s : State) : Host.Outcome State Fault Refusal :=
  perform (fun t => (readWord a t).as .word) s

end Sys2Proof.Machine
end

