-- ==== Sys2Proof/Syntax.lean ====
section
/-! DEFINITION. The seven operations of the block's contract, one constructor per row of
spec/opcode_table.json (00_scope.md R4; 30_encoding.md R60), and the agent whose role it is to issue each. -/

namespace Sys2Proof

/-- An operation with its operands (30_encoding.md R60, R61). -/
inductive Instr where
  /-- `RDB a`, `read_byte(a)` (41_router_ops.md R69). -/
  | rdb (a : Addr)
  /-- `WRB a, v`, `write_byte(a, v)` (R70). -/
  | wrb (a : Addr) (v : Byte)
  /-- `RDW a`, `read_word(a)` (R71). -/
  | rdw (a : Addr)
  /-- `STB on`, `write_strobe(on)` (42_peripheral_ops.md R77). -/
  | stb (on : Bool)
  /-- `RDS`, `read()` (R78). -/
  | rds
  /-- `PRS index`, `press(index)` (R79). The index is a number; that it fits the 8 bits of the command
  word's data field is `Instr.wellFormed` (R61). -/
  | prs (index : Nat)
  /-- `RLS index`, `release(index)` (R80). -/
  | rls (index : Nat)
deriving DecidableEq, Repr

/-- The two agents that issue operations (00_scope.md R5). -/
inductive Agent where
  | driver
  | button
deriving DecidableEq, Repr

/-- Whose role it is to issue an operation (00_scope.md R5). The block makes no check of it
(60_exceptions.md R102). -/
def Instr.agent : Instr → Agent
  | .rdb _ => .driver
  | .wrb _ _ => .driver
  | .rdw _ => .driver
  | .stb _ => .driver
  | .rds => .driver
  | .prs _ => .button
  | .rls _ => .button

/-- The two sub-blocks (00_scope.md R1). -/
inductive SubBlock where
  /-- `BR`, the Bus Router with its Linear Store. -/
  | router
  /-- `SRP`, the Shift-Register Peripheral. -/
  | peripheral
deriving DecidableEq, Repr

/-- The sub-block an operation acts on (00_scope.md R4). -/
def Instr.subBlock : Instr → SubBlock
  | .rdb _ => .router
  | .wrb _ _ => .router
  | .rdw _ => .router
  | .stb _ => .peripheral
  | .rds => .peripheral
  | .prs _ => .peripheral
  | .rls _ => .peripheral

end Sys2Proof
end

