-- ==== Sys2Proof/Machine/Dispatch.lean ====
section
/-! DEFINITION. One arm per operation, each a direct call of its meaning. -/

namespace Sys2Proof.Machine

def exec (i : Instr) (s : State) : Host.Outcome State Fault Refusal :=
  match i with
  | .rdb a => Sys2Proof.Machine.execRdb a s
  | .wrb a v => Sys2Proof.Machine.execWrb a v s
  | .rdw a => Sys2Proof.Machine.execRdw a s
  | .stb on => Sys2Proof.Machine.execStb on s
  | .rds => Sys2Proof.Machine.execRds s
  | .prs index => Sys2Proof.Machine.execPrs index s
  | .rls index => Sys2Proof.Machine.execRls index s

end Sys2Proof.Machine
end

