-- ==== Sys2Proof/WellFormed.lean ====
section
/-! DEFINITION. What makes an operation term one that a command word can spell (30_encoding.md R61). -/

namespace Sys2Proof

/-- "`index = W[7:0]` as a `u8`": a button index is carried as eight bits (30_encoding.md R61,
92_eei_decisions.md D15). Indices 8 to 255 are well formed: they reach the fault of
42_peripheral_ops.md R79 and R80. -/
def indexFits (index : Nat) : Bool := decide (index < 256)

/-- Every other operand has its width in its type, so the index is the one thing to check. -/
def Instr.wellFormed : Instr → Bool
  | .rdb _ => true
  | .wrb _ _ => true
  | .rdw _ => true
  | .stb _ => true
  | .rds => true
  | .prs index => indexFits index
  | .rls index => indexFits index

end Sys2Proof
end

