-- ==== Sys2Proof/Decode.lean ====
section
/-! DEFINITION. The command word (30_encoding.md R59 to R61, R63): its fields, the decoder, total on every
32-bit word and refusing by name, and the encoder. -/

namespace Sys2Proof

/-! ## Fields of a command word (R59) -/

/-- `op`, bits 31:28. -/
def opField (w : CommandWord) : BitVec 4 := w.extractLsb' 28 4

/-- `zero`, bits 27:24. -/
def zeroField (w : CommandWord) : BitVec 4 := w.extractLsb' 24 4

/-- `addr`, bits 23:8. -/
def addrField (w : CommandWord) : Addr := w.extractLsb' 8 16

/-- `data`, bits 7:0. -/
def dataField (w : CommandWord) : Byte := w.extractLsb' 0 8

/-! ## Operation codes (R60) -/

abbrev opRdb : BitVec 4 := 0x0#4
abbrev opWrb : BitVec 4 := 0x1#4
abbrev opRdw : BitVec 4 := 0x2#4
abbrev opStb : BitVec 4 := 0x8#4
abbrev opRds : BitVec 4 := 0x9#4
abbrev opPrs : BitVec 4 := 0xA#4
abbrev opRls : BitVec 4 := 0xB#4

/-! ## The decoder -/

/-- Why a word spells no operation (R63). The names are the model's (log entry 17): the spec has the one
answer "invalid". -/
inductive DecodeError where
  /-- `op` is one of 0x3 to 0x7, 0xC to 0xF. -/
  | reservedOp
  /-- `zero` is not 0b0000. -/
  | zeroNotZero
  /-- `addr` of a `P` format word is not 0x0000. -/
  | addrNotZero
  /-- A bit of `data` that must be zero is one: `data` of `RDB`, `RDW`, `RDS`, `data[7:1]` of `STB`. -/
  | dataNotZero
deriving DecidableEq, Repr

/-- The decoder's answer: the operation the word spells, or "invalid" with the reason. -/
inductive Decoded where
  | spells (i : Instr)
  | invalid (why : DecodeError)
deriving DecidableEq, Repr

/-- A word that needs a field to be zero. -/
def Decoded.require (ok : Bool) (why : DecodeError) (d : Decoded) : Decoded :=
  if ok then d else .invalid why

/-- Format `P` with `addr` zero (R59). -/
def decodePeripheral (w : CommandWord) (d : Decoded) : Decoded :=
  Decoded.require (addrField w == 0x0000#16) .addrNotZero d

/-- `data` must be zero. -/
def decodeNoData (w : CommandWord) (d : Decoded) : Decoded :=
  Decoded.require (dataField w == 0x00#8) .dataNotZero d

/-- The operation named by the `op` field, its other must-be-zero fields checked (R60, R63). -/
def decodeOp (w : CommandWord) : Decoded :=
  if opField w = opRdb then decodeNoData w (.spells (.rdb (addrField w)))
  else if opField w = opWrb then .spells (.wrb (addrField w) (dataField w))
  else if opField w = opRdw then decodeNoData w (.spells (.rdw (addrField w)))
  else if opField w = opStb then
    decodePeripheral w <|
      Decoded.require ((dataField w).extractLsb' 1 7 == 0#7) .dataNotZero (.spells (.stb ((dataField w).getLsbD 0)))
  else if opField w = opRds then decodePeripheral w (decodeNoData w (.spells .rds))
  else if opField w = opPrs then decodePeripheral w (.spells (.prs (dataField w).toNat))
  else if opField w = opRls then decodePeripheral w (.spells (.rls (dataField w).toNat))
  else .invalid .reservedOp

/-- What a command word spells. Total: every word spells one operation or is invalid (R63). -/
def decode (w : CommandWord) : Decoded :=
  Decoded.require (zeroField w == 0b0000#4) .zeroNotZero (decodeOp w)

/-- The operation, where there is one. -/
def Decoded.instr? : Decoded → Option Instr
  | .spells i => some i
  | .invalid _ => none

/-! ## The encoder -/

/-- The layout of R59 with `zero` = 0b0000. -/
def commandOf (op : BitVec 4) (addr : Addr) (data : Byte) : CommandWord :=
  op ++ 0b0000#4 ++ addr ++ data

/-- The command word of an operation (R60, R61). -/
def encode : Instr → CommandWord
  | .rdb a => commandOf opRdb a 0x00#8
  | .wrb a v => commandOf opWrb a v
  | .rdw a => commandOf opRdw a 0x00#8
  | .stb on => commandOf opStb 0x0000#16 (if on then 0x01#8 else 0x00#8)
  | .rds => commandOf opRds 0x0000#16 0x00#8
  | .prs index => commandOf opPrs 0x0000#16 (BitVec.ofNat 8 index)
  | .rls index => commandOf opRls 0x0000#16 (BitVec.ofNat 8 index)

/-! ## The match and mask columns of R60 -/

/-- One row of the table of R60. -/
structure CommandRow where
  mnemonic : String
  matchBits : CommandWord
  mask : CommandWord
deriving DecidableEq, Repr

/-- "`W` spells the operation exactly when `W & mask == match`." -/
def CommandRow.matches (r : CommandRow) (w : CommandWord) : Bool := w &&& r.mask == r.matchBits

/-- The seven rows of R60. -/
def commandRows : List CommandRow :=
  [ ⟨"RDB", 0x00000000#32, 0xFF0000FF#32⟩,
    ⟨"WRB", 0x10000000#32, 0xFF000000#32⟩,
    ⟨"RDW", 0x20000000#32, 0xFF0000FF#32⟩,
    ⟨"STB", 0x80000000#32, 0xFFFFFFFE#32⟩,
    ⟨"RDS", 0x90000000#32, 0xFFFFFFFF#32⟩,
    ⟨"PRS", 0xA0000000#32, 0xFFFFFF00#32⟩,
    ⟨"RLS", 0xB0000000#32, 0xFFFFFF00#32⟩ ]

/-- The row of an operation (R60). -/
def Instr.mnemonic : Instr → String
  | .rdb _ => "RDB"
  | .wrb _ _ => "WRB"
  | .rdw _ => "RDW"
  | .stb _ => "STB"
  | .rds => "RDS"
  | .prs _ => "PRS"
  | .rls _ => "RLS"

/-! ## The host's numbering of bits -/

/-- The command word whose low `nbits` bits are those of `w`, the bits above zero. There is one length,
32 bits (R59), and no byte order: a command is one word (log entry 16). -/
def tableWord (nbits w : Nat) : CommandWord := BitVec.ofNat 32 (w % 2 ^ nbits)

/-- The operation the decoder reads from a word of the opcode table; no command is longer than 32 bits. -/
def decodeTableWord (nbits w : Nat) : Option Instr :=
  if nbits ≤ 32 then (decode (tableWord nbits w)).instr? else none

end Sys2Proof
end

