-- ==== Sys2Proof/Machine/Fetch.lean ====
section
/-! DEFINITION. How the next operation is taken: the block has no program counter (10_state.md R10), its agents
issue operations one at a time (00_scope.md R5), each as a command word (30_encoding.md R59). -/

namespace Sys2Proof.Machine

/-- The next command word issued, and the state with it taken; none where nothing is issued. -/
def fetch (s : State) : Option (CommandWord × State) :=
  match s.commands with
  | [] => none
  | w :: rest => some (w, s.setCommands rest)

/-- A word that spells no operation: outcome `REFUSED`, "no state changes, no event is emitted and no fault is
recorded" (30_encoding.md R63). -/
def rejectWord (s : State) : Host.Outcome State Fault Refusal := .next (s.respond .refused)

/-- A command word issued ahead of the others. -/
def State.issue (s : State) (w : CommandWord) : State := s.setCommands (w :: s.commands)

end Sys2Proof.Machine
end

