-- ==== Sys2Proof/Machine/Step.lean ====
section
/-! DEFINITION. One step: the next operation issued is performed whole (00_scope.md R4). -/

namespace Sys2Proof.Machine

/-- One step of the block. With nothing issued there is no step to take (log entry 2). -/
def step (s : State) : Host.Outcome State Fault Refusal :=
  match fetch s with
  | none => .fault .noCommand
  | some (w, t) =>
    match decode w with
    | .invalid _ => rejectWord t
    | .spells i => exec i t

/-- The state with a command word issued ahead of the others, so that the next step performs it (log
entry 16). -/
def State.withFetchWord (s : State) (nbits w : Nat) : State := s.issue (tableWord nbits w)

end Sys2Proof.Machine
end

