-- ==== Sys2Proof/Machine/Response.lean ====
section
/-! DEFINITION. The response word `Q` of an outcome (30_encoding.md R62). -/

namespace Sys2Proof.Machine

/-- The value zero-extended to the `u16` of `Q[15:0]`; 0 where there is none (R62). -/
def Value.half : Value → Half
  | .absent => 0x0000#16
  | .byte v => v.setWidth 16
  | .word v => v
  | .bit v => v.setWidth 16

/-- The response word (R62): `Q[31:30]` = 0 `OK`, 1 `FAULT`, 2 `REFUSED`. -/
def Result.response : Result → CommandWord
  | .ok v => 0#2 ++ 0#14 ++ v.half
  | .fault f => 1#2 ++ 0#6 ++ f.cause.code ++ 0#3 ++ f.comp.code ++ f.info
  | .refused => 2#2 ++ 0#30

end Sys2Proof.Machine
end

