-- ==== Sys2Proof/Safety.lean ====
section
/-! DEFINITION. What claims are stated in: the invariant of the machine (10_state.md R18, R19; 60_exceptions.md
R90), the owner's duty (70_reset_and_hazards.md R113), where a run may stop (R123), and several operations
performed one after another. -/

namespace Sys2Proof

/-! ## What an operation touches -/

/-- The effective addresses of an operation (41_router_ops.md R75). -/
def Instr.addresses : Instr → List Addr
  | .rdb a => [a]
  | .wrb a _ => [a]
  | .rdw a => [a, Machine.nextAddr a]
  | .stb _ => []
  | .rds => []
  | .prs _ => []
  | .rls _ => []

/-- The button index of an operation, where it has one (42_peripheral_ops.md R79, R80). -/
def Instr.button? : Instr → Option Nat
  | .rdb _ => none
  | .wrb _ _ => none
  | .rdw _ => none
  | .stb _ => none
  | .rds => none
  | .prs index => some index
  | .rls index => some index

/-- An address whose every access is fatal whatever the environment (70_reset_and_hazards.md R117,
R118). -/
def Addr.fatal (a : Addr) : Prop := (0x4000 ≤ a.toNat ∧ a.toNat ≤ 0x401F) ∨ a = 0xFFFF#16

/-- The words of 30_encoding.md R63, by their fields: a reserved `op`, a `zero` that is not zero, or a
must-be-zero operand field that is not zero. -/
def CommandWord.reserved (w : CommandWord) : Prop :=
  w.extractLsb' 28 4 ∈ [0x3#4, 0x4#4, 0x5#4, 0x6#4, 0x7#4, 0xC#4, 0xD#4, 0xE#4, 0xF#4] ∨
  w.extractLsb' 24 4 ≠ 0#4 ∨
  (w.extractLsb' 28 4 ∈ [0x0#4, 0x2#4, 0x9#4] ∧ w.extractLsb' 0 8 ≠ 0#8) ∨
  (w.extractLsb' 28 4 ∈ [0x8#4, 0x9#4, 0xA#4, 0xB#4] ∧ w.extractLsb' 8 16 ≠ 0#16) ∨
  (w.extractLsb' 28 4 = 0x8#4 ∧ w.extractLsb' 1 7 ≠ 0#7)

end Sys2Proof

namespace Sys2Proof.Machine

/-! ## The invariant -/

/-- "cursor never exceeds 8" (10_state.md R18). -/
def State.cursorInRange (s : State) : Prop := s.cursor.toNat ≤ 8

/-- "`strobe == 1` implies `cursor == 0`" (10_state.md R19). -/
def State.strobePinsCursor (s : State) : Prop := s.strobe = true → s.cursor = 0

/-- The rows of 60_exceptions.md R90 that can be recorded: causes 1 to 4 with the `info` and `comp` each
gives; cause 5 is unreachable (40_linear_store.md R68). -/
def FaultRecord.legal (r : FaultRecord) : Prop :=
  (r.cause = 1 ∧ r.comp = 0 ∧ 0x4000 ≤ r.info.toNat ∧ r.info.toNat ≤ 0x401F) ∨
  (r.cause = 2 ∧ r.comp = 0 ∧ r.info = 0xFFFF#16) ∨
  (r.cause = 3 ∧ r.comp = 1 ∧ 0x2000 ≤ r.info.toNat ∧ r.info.toNat ≤ 0x3FFF) ∨
  (r.cause = 3 ∧ r.comp = 2 ∧ 0x4020 ≤ r.info.toNat ∧ r.info.toNat ≤ 0xFFFE) ∨
  (r.cause = 4 ∧ r.comp = 0 ∧ 8 ≤ r.info.toNat ∧ r.info.toNat ≤ 255)

/-- A recorded fault is one of the rows of R90 that can be raised. -/
def State.faultLegal (s : State) : Prop := s.fault.valid = true → s.fault.legal

/-- "the router only ever passes values from 0x4020 to 0xFFFE" to the Mapper (43_component_ports.md R85,
R86); a Picture Unit event carries a register, which its type keeps below 8 (R83). -/
def Event.legal : Event → Prop
  | .ppuRead _ => True
  | .ppuWrite _ _ => True
  | .mapRead a => 0x4020 ≤ a.toNat ∧ a.toNat ≤ 0xFFFE
  | .mapWrite a _ => 0x4020 ≤ a.toNat ∧ a.toNat ≤ 0xFFFE

/-- Every event emitted so far is legal. -/
def State.eventsLegal (s : State) : Prop := ∀ e ∈ s.events, e.legal

/-- What every state a run reaches has. -/
structure State.Inv (s : State) : Prop where
  ramWf : s.ram.wf = true
  cursor : s.cursorInRange
  pinned : s.strobePinsCursor
  fault : s.faultLegal
  refs : s.refs = References.bound
  events : s.eventsLegal

/-! ## Runs -/

/-- The owner's duty, a premise on the environment: both references resolve at every delegated access to
come (70_reset_and_hazards.md R113). -/
def State.dutyKept (s : State) : Prop := ∀ m ∈ s.env, m.availPpu = true ∧ m.availMap = true

/-- "every state in which `fault.valid` is 0 is a state the run may stop in" (70_reset_and_hazards.md
R123). -/
def State.mayStop (s : State) : Prop := s.fault.valid = false

/-- Operations performed one after another (00_scope.md R4). -/
def execAll : List Instr → State → Host.Outcome State Fault Refusal
  | [], s => .next s
  | i :: rest, s =>
    match exec i s with
    | .next t => execAll rest t
    | .fault r => .fault r
    | .refused r => .refused r

/-! ## What two states share -/

/-- The block's own state is the same (10_state.md R12 to R17). -/
def State.sameBlock (s t : State) : Prop :=
  s.ram = t.ram ∧ s.snapshot = t.snapshot ∧ s.cursor = t.cursor ∧ s.strobe = t.strobe ∧
    s.fault = t.fault ∧ s.refs = t.refs

/-- The state with other peripheral registers. -/
def State.withPeripheral (s : State) (snapshot : Byte) (cursor : BitVec 4) (strobe : Bool) : State :=
  { s with snapshot := snapshot, cursor := cursor, strobe := strobe }

/-- The state with another store, another port history and another environment. -/
def State.withRouter (s : State) (ram : Memory) (events : List Event) (env : List Moment) (draws : Nat) : State :=
  { s with ram := ram, events := events, env := env, draws := draws }

end Sys2Proof.Machine
end

