-- ==== Sys2Proof/Certificates/Slice0/Obligations.lean ====
section
/-! DEFINITION. The statements for the provers. Every docstring names the rule of spec/ it formalises; a
statement that rests on a choice of the model says which log entry. "Running" is `fault.valid` = 0: what every
rule of files 41 and 42 takes ("Every rule here applies only while the block is not halted"); the halted case
is `Obligations.HaltedBlockRefusesEverything`. -/

open Sys2Proof Sys2Proof.Machine

/-! ## Reset -/

/-- 10_state.md R25, 70_reset_and_hazards.md R109: what reset leaves. (The `cause`, `comp`, `info` of the
fault record are unspecified there and nothing is said of them.) -/
def Obligations.ResetLeavesSpecifiedValues : Prop :=
  (∀ index, index < 0x800 → State.reset.ram.read index = 0x00#8) ∧
  State.reset.snapshot = 0x00#8 ∧ State.reset.cursor = 0#4 ∧ State.reset.strobe = false ∧
  State.reset.fault.valid = false ∧
  State.reset.refs.cpu = .processor ∧ State.reset.refs.ppu = .pictureUnit ∧ State.reset.refs.map = .mapper ∧
  State.reset.events = []

/-! ## Steps and the command word -/

/-- A step performs the operation the next command word spells, on the state with that word taken (the list
of issued words is the model's: log entry 1). -/
def Obligations.StepRunsDecodedOperation : Prop :=
  ∀ (s : State) (w : CommandWord) (rest : List CommandWord) (i : Instr),
    s.commands = w :: rest → decode w = .spells i →
      step s = exec i { s with commands := rest }

/-- With nothing issued a step stops and names it (the model's choice: log entry 2). -/
def Obligations.StepWithNothingIssuedStops : Prop :=
  ∀ s : State, s.commands = [] → step s = .fault .noCommand

/-- A word issued through `withFetchWord` is performed by the very next step, on the state as it was (log
entry 16). -/
def Obligations.IssuedWordRunsNext : Prop :=
  ∀ (s : State) (nbits w : Nat) (i : Instr),
    decodeTableWord nbits w = some i → step (s.withFetchWord nbits w) = exec i s

/-- 30_encoding.md R63: the words that match no row of R60 are exactly those with a reserved `op`, a `zero`
that is not zero or a must-be-zero operand field that is not zero; such a word has outcome `REFUSED`, and no
state, event or fault changes. -/
def Obligations.ReservedWordIsRefused : Prop :=
  (∀ w : CommandWord, w.reserved ↔ ∀ r ∈ commandRows, r.matches w = false) ∧
  (∀ w : CommandWord, w.reserved ↔ (decode w).instr? = none) ∧
  (∀ (s : State) (w : CommandWord) (rest : List CommandWord),
    s.commands = w :: rest → w.reserved →
      step s = .next { s with commands := rest, outcomes := s.outcomes ++ [.refused] })

/-- Words of 95_test_vectors.md section 2.6, as it reads them. -/
def Obligations.SampleWordsDecode : Prop :=
  decode 0x00123400#32 = .spells (.rdb 0x1234#16) ∧
  decode 0x10FFFFFF#32 = .spells (.wrb 0xFFFF#16 0xFF#8) ∧
  decode 0x20000100#32 = .spells (.rdw 0x0001#16) ∧
  decode 0x80000001#32 = .spells (.stb true) ∧
  decode 0x90000000#32 = .spells .rds ∧
  decode 0xA00000FF#32 = .spells (.prs 255) ∧
  decode 0xB0000007#32 = .spells (.rls 7) ∧
  (decode 0x30000000#32).instr? = none ∧ (decode 0x80000100#32).instr? = none

/-- Decoding an encoded operation gives it back, with every operand at every value its field admits
(30_encoding.md section 3). -/
def Obligations.DecodeAfterEncodeIsIdentity : Prop :=
  ∀ i : Instr, i.wellFormed = true → decode (encode i) = .spells i

/-- Each word has one meaning: a word that spells an operation is that operation's word, and the operation is
well formed (30_encoding.md section 3). -/
def Obligations.EncodeAfterDecodeIsIdentity : Prop :=
  ∀ (w : CommandWord) (i : Instr), decode w = .spells i → encode i = w ∧ i.wellFormed = true

/-- 30_encoding.md R60, R61: a word spells an operation exactly when it meets the row's match under its mask,
the operands are the bits R61 names, no word matches two rows, and bit 31 tells the sub-block. -/
def Obligations.WordSpellsByMatchAndMask : Prop :=
  (∀ (w : CommandWord) (a : Addr), decode w = .spells (.rdb a) ↔
    w &&& 0xFF0000FF#32 = 0x00000000#32 ∧ a = w.extractLsb' 8 16) ∧
  (∀ (w : CommandWord) (a : Addr) (v : Byte), decode w = .spells (.wrb a v) ↔
    w &&& 0xFF000000#32 = 0x10000000#32 ∧ a = w.extractLsb' 8 16 ∧ v = w.extractLsb' 0 8) ∧
  (∀ (w : CommandWord) (a : Addr), decode w = .spells (.rdw a) ↔
    w &&& 0xFF0000FF#32 = 0x20000000#32 ∧ a = w.extractLsb' 8 16) ∧
  (∀ (w : CommandWord) (on : Bool), decode w = .spells (.stb on) ↔
    w &&& 0xFFFFFFFE#32 = 0x80000000#32 ∧ on = w.getLsbD 0) ∧
  (∀ w : CommandWord, decode w = .spells .rds ↔ w &&& 0xFFFFFFFF#32 = 0x90000000#32) ∧
  (∀ (w : CommandWord) (index : Nat), decode w = .spells (.prs index) ↔
    w &&& 0xFFFFFF00#32 = 0xA0000000#32 ∧ index = (w.extractLsb' 0 8).toNat) ∧
  (∀ (w : CommandWord) (index : Nat), decode w = .spells (.rls index) ↔
    w &&& 0xFFFFFF00#32 = 0xB0000000#32 ∧ index = (w.extractLsb' 0 8).toNat) ∧
  (∀ (w : CommandWord) (p q : CommandRow), p ∈ commandRows → q ∈ commandRows →
    p.matches w = true → q.matches w = true → p = q) ∧
  (∀ (w : CommandWord) (i : Instr), decode w = .spells i →
    (w.getLsbD 31 = true ↔ i.subBlock = .peripheral))

/-- 30_encoding.md R62: the fields of the response word of each outcome. -/
def Obligations.ResponseWordLayout : Prop :=
  (∀ v : Value, (Result.ok v).response.extractLsb' 30 2 = 0#2 ∧ (Result.ok v).response.extractLsb' 16 14 = 0#14) ∧
  ((Result.ok .absent).response.extractLsb' 0 16 = 0#16) ∧
  (∀ v : Byte, (Result.ok (.byte v)).response.extractLsb' 0 16 = v.setWidth 16) ∧
  (∀ v : Half, (Result.ok (.word v)).response.extractLsb' 0 16 = v) ∧
  (∀ v : BitVec 1, (Result.ok (.bit v)).response.extractLsb' 0 16 = v.setWidth 16) ∧
  (∀ f : FaultInfo,
    (Result.fault f).response.extractLsb' 30 2 = 1#2 ∧ (Result.fault f).response.extractLsb' 24 6 = 0#6 ∧
    (Result.fault f).response.extractLsb' 21 3 = f.cause.code ∧ (Result.fault f).response.extractLsb' 18 3 = 0#3 ∧
    (Result.fault f).response.extractLsb' 16 2 = f.comp.code ∧
    (Result.fault f).response.extractLsb' 0 16 = f.info) ∧
  (Result.refused.response.extractLsb' 30 2 = 2#2 ∧ Result.refused.response.extractLsb' 0 30 = 0#30)

/-! ## The address map -/

/-- 20_memory.md R29: the class of an address by its number, and nothing but the address decides it (it is
the one argument). -/
def Obligations.ClassifierIsRangeTable : Prop :=
  ∀ a : Addr,
    (classify a = .ram ↔ a.toNat ≤ 0x1FFF) ∧
    (classify a = .ppu ↔ 0x2000 ≤ a.toNat ∧ a.toNat ≤ 0x3FFF) ∧
    (classify a = .apuio ↔ 0x4000 ≤ a.toNat ∧ a.toNat ≤ 0x4017) ∧
    (classify a = .test ↔ 0x4018 ≤ a.toNat ∧ a.toNat ≤ 0x401F) ∧
    (classify a = .mapper ↔ 0x4020 ≤ a.toNat ∧ a.toNat ≤ 0xFFFE) ∧
    (classify a = .invalid ↔ a.toNat = 0xFFFF)

/-- 20_memory.md R30: the gate-level decoder's select lines are the classifier's, exactly one is 1 for every
address, and the boundary addresses fall where R30 says. -/
def Obligations.GateDecoderIsClassifier : Prop :=
  (∀ (a : Addr) (r : Region), selectLine a r = true ↔ classify a = r) ∧
  (∀ a : Addr, ∃! r : Region, selectLine a r = true) ∧
  classify 0x1FFF#16 = .ram ∧ classify 0x2000#16 = .ppu ∧ classify 0x3FFF#16 = .ppu ∧
  classify 0x4000#16 = .apuio ∧ classify 0x4017#16 = .apuio ∧ classify 0x4018#16 = .test ∧
  classify 0x401F#16 = .test ∧ classify 0x4020#16 = .mapper ∧ classify 0xFFFE#16 = .mapper ∧
  classify 0xFFFF#16 = .invalid

/-- The match and mask rows are thirty different ones; each address matches exactly one of them, whatever its
class; and a row that matches an address bears the class the classifier gives it (30_encoding.md section 2,
the table of format `A-MAP`). -/
def Obligations.AddressMapRowsCoverOnce : Prop :=
  (mapRows.length = 30 ∧ mapRows.Nodup) ∧
  (∀ a : Addr, ∃! r : MapRow, r ∈ mapRows ∧ r.matches a = true) ∧
  ∀ (a : Addr) (r : MapRow), r ∈ mapRows → r.matches a = true → r.region = classify a

/-- 30_encoding.md R54, R55: the two mirrored classes by match and mask, their index and register by bits and
by remainder, and the image field that selects nothing. -/
def Obligations.MirrorFieldsAreRemainders : Prop :=
  (∀ a : Addr, (classify a = .ram ↔ a &&& 0xE000#16 = 0x0000#16) ∧
    (classify a = .ppu ↔ a &&& 0xE000#16 = 0x2000#16)) ∧
  (∀ a : Addr, classify a = .ram →
    storeIndex a = a.toNat % 0x800 ∧ storeIndex a = (a.extractLsb' 0 11).toNat) ∧
  (∀ a : Addr, classify a = .ppu →
    (ppuReg a).toNat = (a.toNat - 0x2000) % 8 ∧ ppuReg a = a.extractLsb' 0 3) ∧
  (∀ a b : Addr, classify a = .ram → classify b = .ram → a.extractLsb' 0 11 = b.extractLsb' 0 11 →
    storeIndex a = storeIndex b) ∧
  (∀ a b : Addr, classify a = .ppu → classify b = .ppu → a.extractLsb' 0 3 = b.extractLsb' 0 3 →
    ppuReg a = ppuReg b)

/-- The router's arithmetic is exact at its widths (20_memory.md section 5): no borrow in the window, the
second address modulo 2^16, no bit of a word result lost. -/
def Obligations.RouterArithmeticIsExact : Prop :=
  (∀ a : Addr, 0x2000 ≤ a.toNat → a.toNat ≤ 0x3FFF → (a - 0x2000#16).toNat = a.toNat - 0x2000) ∧
  (∀ a : Addr, (nextAddr a).toNat = (a.toNat + 1) % 0x10000) ∧
  (∀ high low : Byte, (joinBytes high low).toNat = high.toNat * 0x100 + low.toNat)

/-! ## The Linear Store -/

/-- 40_linear_store.md R66, R67: the store's two primitives, inside and outside the bound; a write changes
the one cell and nothing else. -/
def Obligations.StorePrimitivesRespectBound : Prop :=
  ∀ (index : Nat) (v : Byte) (s : State),
    (index < 0x800 → storeRead index s = .done (s.ram.read index) s) ∧
    (0x800 ≤ index → storeRead index s = .raised ⟨.storeBounds, BitVec.ofNat 16 index, .none⟩ s) ∧
    (index < 0x800 → s.ram.wf = true → ∃ t, storeWrite index v s = .done () t ∧
      (∀ j, t.ram.read j = if j = index then v else s.ram.read j) ∧ t = { s with ram := t.ram }) ∧
    (0x800 ≤ index → storeWrite index v s = .raised ⟨.storeBounds, BitVec.ofNat 16 index, .none⟩ s)

/-- 40_linear_store.md R68: the bound check never fires: no operation records cause 5. -/
def Obligations.StoreBoundNeverFires : Prop :=
  ∀ (i : Instr) (s t : State), s.fault.valid = false → exec i s = .next t →
    (t.fault.valid = true → t.fault.cause ≠ 5#3) ∧
    ∀ f : FaultInfo, t.outcomes = s.outcomes ++ [.fault f] → f.cause ≠ .storeBounds

/-- Two canonical stores that read the same are the same data: the canonical form names each store once (the
model's representation, log entry 13). -/
def Obligations.CanonicalStoresReadingAlikeAreEqual : Prop :=
  ∀ m m' : Memory, m.wf = true → m'.wf = true → (∀ index, m.read index = m'.read index) → m = m'

/-! ## Router operations -/

/-- 41_router_ops.md R69: `RDB` in every class, its value, event and fault; nothing else of the block's state
changes. (How the environment's inputs are used up is `Obligations.DelegatedAccessUsesOneMoment`.) -/
def Obligations.ReadByteAnswersByClass : Prop :=
  ∀ (a : Addr) (s : State), s.fault.valid = false →
    (a.toNat ≤ 0x1FFF → exec (.rdb a) s = .next { s with
      outcomes := s.outcomes ++ [.ok (.byte (s.ram.read (a.toNat % 0x800)))] }) ∧
    (0x2000 ≤ a.toNat → a.toNat ≤ 0x3FFF → s.availPpu = true → ∃ t, exec (.rdb a) s = .next t ∧ t = { s with
      events := s.events ++ [.ppuRead (BitVec.ofNat 3 ((a.toNat - 0x2000) % 8))]
      env := t.env, draws := t.draws
      outcomes := s.outcomes ++ [.ok (.byte (s.ppuAnswer (BitVec.ofNat 3 ((a.toNat - 0x2000) % 8))))] }) ∧
    (0x2000 ≤ a.toNat → a.toNat ≤ 0x3FFF → s.availPpu = false → exec (.rdb a) s = .next { s with
      fault := ⟨true, 3, 1, a⟩, outcomes := s.outcomes ++ [.fault ⟨.unresolvedReference, a, .ppu⟩] }) ∧
    (0x4000 ≤ a.toNat → a.toNat ≤ 0x401F → exec (.rdb a) s = .next { s with
      fault := ⟨true, 1, 0, a⟩, outcomes := s.outcomes ++ [.fault ⟨.unimplementedRegion, a, .none⟩] }) ∧
    (0x4020 ≤ a.toNat → a.toNat ≤ 0xFFFE → s.availMap = true → ∃ t, exec (.rdb a) s = .next t ∧ t = { s with
      events := s.events ++ [.mapRead a], env := t.env, draws := t.draws
      outcomes := s.outcomes ++ [.ok (.byte (s.mapAnswer a))] }) ∧
    (0x4020 ≤ a.toNat → a.toNat ≤ 0xFFFE → s.availMap = false → exec (.rdb a) s = .next { s with
      fault := ⟨true, 3, 2, a⟩, outcomes := s.outcomes ++ [.fault ⟨.unresolvedReference, a, .mapper⟩] }) ∧
    (a = 0xFFFF#16 → exec (.rdb a) s = .next { s with
      fault := ⟨true, 2, 0, a⟩, outcomes := s.outcomes ++ [.fault ⟨.invalidAddress, a, .none⟩] })

/-- 41_router_ops.md R70: `WRB` in every class. In the `RAM` class the cell `a mod 0x0800` holds the byte
after and every other cell reads as before; on a fault nothing is written anywhere. -/
def Obligations.WriteByteStoresByClass : Prop :=
  ∀ (a : Addr) (v : Byte) (s : State), s.fault.valid = false →
    (a.toNat ≤ 0x1FFF → s.ram.wf = true → ∃ t, exec (.wrb a v) s = .next t ∧
      (∀ index, t.ram.read index = if index = a.toNat % 0x800 then v else s.ram.read index) ∧
      t = { s with ram := t.ram, outcomes := s.outcomes ++ [.ok .absent] }) ∧
    (0x2000 ≤ a.toNat → a.toNat ≤ 0x3FFF → s.availPpu = true → ∃ t, exec (.wrb a v) s = .next t ∧ t = { s with
      events := s.events ++ [.ppuWrite (BitVec.ofNat 3 ((a.toNat - 0x2000) % 8)) v]
      env := t.env, draws := t.draws, outcomes := s.outcomes ++ [.ok .absent] }) ∧
    (0x2000 ≤ a.toNat → a.toNat ≤ 0x3FFF → s.availPpu = false → exec (.wrb a v) s = .next { s with
      fault := ⟨true, 3, 1, a⟩, outcomes := s.outcomes ++ [.fault ⟨.unresolvedReference, a, .ppu⟩] }) ∧
    (0x4000 ≤ a.toNat → a.toNat ≤ 0x401F → exec (.wrb a v) s = .next { s with
      fault := ⟨true, 1, 0, a⟩, outcomes := s.outcomes ++ [.fault ⟨.unimplementedRegion, a, .none⟩] }) ∧
    (0x4020 ≤ a.toNat → a.toNat ≤ 0xFFFE → s.availMap = true → ∃ t, exec (.wrb a v) s = .next t ∧ t = { s with
      events := s.events ++ [.mapWrite a v], env := t.env, draws := t.draws
      outcomes := s.outcomes ++ [.ok .absent] }) ∧
    (0x4020 ≤ a.toNat → a.toNat ≤ 0xFFFE → s.availMap = false → exec (.wrb a v) s = .next { s with
      fault := ⟨true, 3, 2, a⟩, outcomes := s.outcomes ++ [.fault ⟨.unresolvedReference, a, .mapper⟩] }) ∧
    (a = 0xFFFF#16 → exec (.wrb a v) s = .next { s with
      fault := ⟨true, 2, 0, a⟩, outcomes := s.outcomes ++ [.fault ⟨.invalidAddress, a, .none⟩] })

/-- 41_router_ops.md R71, R72: `RDW a` is `RDB a` and then, if that did not fault, `RDB` of the next address
on the state it left; the first fault is the word's, and the word is the high byte over the low. (The two
outcomes of the byte reads are replaced by the word's one.) -/
def Obligations.ReadWordIsTwoByteReads : Prop :=
  ∀ (a : Addr) (s t : State), s.fault.valid = false → exec (.rdb a) s = .next t →
    (t.fault.valid = true → exec (.rdw a) s = .next t) ∧
    (∀ (low : Byte) (u : State), t.outcomes = s.outcomes ++ [.ok (.byte low)] →
      exec (.rdb (BitVec.ofNat 16 ((a.toNat + 1) % 0x10000))) { t with outcomes := s.outcomes } = .next u →
      (u.fault.valid = true → exec (.rdw a) s = .next u) ∧
      (∀ high : Byte, u.outcomes = s.outcomes ++ [.ok (.byte high)] →
        exec (.rdw a) s = .next { u with
          outcomes := s.outcomes ++ [.ok (.word ((high.setWidth 16 <<< 8) ||| low.setWidth 16))] }))

/-- 41_router_ops.md R73: every boundary case of its table, for every address, with the component of each
byte available at its moment (the owner's duty). -/
def Obligations.ReadWordBoundaryCases : Prop :=
  ∀ (a : Addr) (s : State), s.fault.valid = false →
    (a.toNat < 0x1FFF → exec (.rdw a) s = .next { s with
      outcomes := s.outcomes ++
        [.ok (.word (s.ram.read ((a.toNat + 1) % 0x800) ++ s.ram.read (a.toNat % 0x800) : BitVec 16))] }) ∧
    (a = 0x1FFF#16 → s.availPpu = true → ∃ t, exec (.rdw a) s = .next t ∧ t = { s with
      events := s.events ++ [.ppuRead 0], env := t.env, draws := t.draws
      outcomes := s.outcomes ++ [.ok (.word (s.ppuAnswer 0 ++ s.ram.read 0x7FF : BitVec 16))] }) ∧
    (0x2000 ≤ a.toNat → a.toNat < 0x3FFF → s.availPpu = true → s.passMoment.availPpu = true →
      ∃ t, exec (.rdw a) s = .next t ∧ t = { s with
        events := s.events ++ [.ppuRead (a.extractLsb' 0 3), .ppuRead (a.extractLsb' 0 3 + 1)]
        env := t.env, draws := t.draws
        outcomes := s.outcomes ++ [.ok (.word
          (s.passMoment.ppuAnswer (a.extractLsb' 0 3 + 1) ++ s.ppuAnswer (a.extractLsb' 0 3) : BitVec 16))] }) ∧
    (a = 0x3FFF#16 → s.availPpu = true → ∃ t, exec (.rdw a) s = .next t ∧ t = { s with
      events := s.events ++ [.ppuRead 7], env := t.env, draws := t.draws
      fault := ⟨true, 1, 0, 0x4000#16⟩
      outcomes := s.outcomes ++ [.fault ⟨.unimplementedRegion, 0x4000#16, .none⟩] }) ∧
    (0x4000 ≤ a.toNat → a.toNat ≤ 0x401F → exec (.rdw a) s = .next { s with
      fault := ⟨true, 1, 0, a⟩, outcomes := s.outcomes ++ [.fault ⟨.unimplementedRegion, a, .none⟩] }) ∧
    (0x4020 ≤ a.toNat → a.toNat ≤ 0xFFFD → s.availMap = true → s.passMoment.availMap = true →
      ∃ t, exec (.rdw a) s = .next t ∧ t = { s with
        events := s.events ++ [.mapRead a, .mapRead (a + 1)], env := t.env, draws := t.draws
        outcomes := s.outcomes ++
          [.ok (.word (s.passMoment.mapAnswer (a + 1) ++ s.mapAnswer a : BitVec 16))] }) ∧
    (a = 0xFFFE#16 → s.availMap = true → ∃ t, exec (.rdw a) s = .next t ∧ t = { s with
      events := s.events ++ [.mapRead 0xFFFE#16], env := t.env, draws := t.draws
      fault := ⟨true, 2, 0, 0xFFFF#16⟩
      outcomes := s.outcomes ++ [.fault ⟨.invalidAddress, 0xFFFF#16, .none⟩] }) ∧
    (a = 0xFFFF#16 → exec (.rdw a) s = .next { s with
      fault := ⟨true, 2, 0, 0xFFFF#16⟩
      outcomes := s.outcomes ++ [.fault ⟨.invalidAddress, 0xFFFF#16, .none⟩] })

/-- 43_component_ports.md R87, 60_exceptions.md R93: a reference that does not resolve is fatal at the byte
access that meets it, with that byte's address and the component; no event is emitted for it. A `RAM`,
`APUIO`, `TEST` or `INVALID` byte resolves nothing: its operation is the same in every environment. -/
def Obligations.UnresolvedReferenceHalts : Prop :=
  ∀ (a : Addr) (v : Byte) (s : State), s.fault.valid = false →
    (0x2000 ≤ a.toNat → a.toNat ≤ 0x3FFF → s.availPpu = false → ∀ i ∈ [Instr.rdb a, .wrb a v, .rdw a],
      exec i s = .next { s with
        fault := ⟨true, 3, 1, a⟩, outcomes := s.outcomes ++ [.fault ⟨.unresolvedReference, a, .ppu⟩] }) ∧
    (0x4020 ≤ a.toNat → a.toNat ≤ 0xFFFE → s.availMap = false → ∀ i ∈ [Instr.rdb a, .wrb a v, .rdw a],
      exec i s = .next { s with
        fault := ⟨true, 3, 2, a⟩, outcomes := s.outcomes ++ [.fault ⟨.unresolvedReference, a, .mapper⟩] }) ∧
    (a = 0x1FFF#16 → s.availPpu = false → exec (.rdw a) s = .next { s with
      fault := ⟨true, 3, 1, 0x2000#16⟩
      outcomes := s.outcomes ++ [.fault ⟨.unresolvedReference, 0x2000#16, .ppu⟩] }) ∧
    (0x2000 ≤ a.toNat → a.toNat < 0x3FFF → s.availPpu = true → s.passMoment.availPpu = false →
      ∃ t, exec (.rdw a) s = .next t ∧ t = { s with
        events := s.events ++ [.ppuRead (a.extractLsb' 0 3)], env := t.env, draws := t.draws
        fault := ⟨true, 3, 1, a + 1⟩
        outcomes := s.outcomes ++ [.fault ⟨.unresolvedReference, a + 1, .ppu⟩] }) ∧
    (0x4020 ≤ a.toNat → a.toNat < 0xFFFE → s.availMap = true → s.passMoment.availMap = false →
      ∃ t, exec (.rdw a) s = .next t ∧ t = { s with
        events := s.events ++ [.mapRead a], env := t.env, draws := t.draws
        fault := ⟨true, 3, 2, a + 1⟩
        outcomes := s.outcomes ++ [.fault ⟨.unresolvedReference, a + 1, .mapper⟩] }) ∧
    (a.toNat ≤ 0x1FFF ∨ Addr.fatal a → ∀ (env : List Moment) (t : State), ∀ i ∈ [Instr.rdb a, .wrb a v],
      exec i s = .next t → exec i { s with env := env } = .next { t with env := env })

/-- How the environment's inputs are used up (the model's choice: log entries 5, 6, 12): one moment, and one
step of the free values' counter, for each component-side event, and none otherwise. -/
def Obligations.DelegatedAccessUsesOneMoment : Prop :=
  ∀ (i : Instr) (s t : State), exec i s = .next t →
    ∃ es, t.events = s.events ++ es ∧ t.env = s.env.drop es.length ∧ t.draws = s.draws + es.length

/-- 20_memory.md R32: a byte written through any image of the store is read back through every image of the
same cell, and two `RAM` addresses name the same cell exactly when their low 11 bits are equal. -/
def Obligations.MirroredStoreReadAfterWrite : Prop :=
  ∀ (a b : Addr) (v : Byte) (s : State), s.fault.valid = false → s.ram.wf = true →
    a.toNat ≤ 0x1FFF → b.toNat ≤ 0x1FFF →
    ∃ t u, exec (.wrb a v) s = .next t ∧ exec (.rdb b) t = .next u ∧
      u.outcomes = s.outcomes ++ [.ok .absent, .ok (.byte
        (if b.extractLsb' 0 11 = a.extractLsb' 0 11 then v else s.ram.read (b.toNat % 0x800)))]

/-- 20_memory.md R34: two addresses of the register window reach the same register, read or written, exactly
when their low 3 bits are equal. -/
def Obligations.RegisterWindowMirroring : Prop :=
  ∀ (a b : Addr) (v : Byte) (s : State), s.fault.valid = false → s.availPpu = true →
    0x2000 ≤ a.toNat → a.toNat ≤ 0x3FFF → 0x2000 ≤ b.toNat → b.toNat ≤ 0x3FFF →
    (∃ t u, exec (.rdb a) s = .next t ∧ exec (.rdb b) s = .next u ∧
      (t.events = u.events ↔ a.extractLsb' 0 3 = b.extractLsb' 0 3)) ∧
    (∃ t u, exec (.wrb a v) s = .next t ∧ exec (.wrb b v) s = .next u ∧
      (t.events = u.events ↔ a.extractLsb' 0 3 = b.extractLsb' 0 3))

/-- 20_memory.md R40: bytes written at `a` and `a + 1` are bits [7:0] and [15:8] of the word read at `a`, when
both lie in the `RAM` class, odd or even. -/
def Obligations.WordReadIsLittleEndian : Prop :=
  ∀ (a : Addr) (low high : Byte) (s : State), s.fault.valid = false → s.ram.wf = true → a.toNat < 0x1FFF →
    ∃ t u x w, exec (.wrb a low) s = .next t ∧ exec (.wrb (a + 1) high) t = .next u ∧
      exec (.rdw a) u = .next x ∧ x.outcomes = u.outcomes ++ [.ok (.word w)] ∧
      w.extractLsb' 0 8 = low ∧ w.extractLsb' 8 8 = high

/-! ## Peripheral operations -/

/-- 42_peripheral_ops.md R77: `STB` stores its argument in the latch, zeroes the cursor when it is 1 and
leaves it when it is 0; nothing else changes, and no fault is raised. -/
def Obligations.StrobeWriteSetsLatch : Prop :=
  ∀ (on : Bool) (s : State), s.fault.valid = false →
    exec (.stb on) s = .next { s with
      strobe := on, cursor := if on = true then 0#4 else s.cursor, outcomes := s.outcomes ++ [.ok .absent] }

/-- 42_peripheral_ops.md R78 (with the bit law of R76): `RDS` returns the snapshot's bit at the cursor, 0 from
the eighth on; the cursor advances, saturating at 8, and is forced to 0 while the strobe is high; nothing else
changes, and no fault is raised. -/
def Obligations.ReadReturnsBitAndAdvances : Prop :=
  ∀ s : State, s.fault.valid = false →
    exec .rds s = .next { s with
      cursor := if s.strobe = true then 0#4 else BitVec.ofNat 4 (min (s.cursor.toNat + 1) 8)
      outcomes := s.outcomes ++ [.ok (.bit
        (if s.cursor.toNat < 8 then BitVec.ofBool (s.snapshot.getLsbD s.cursor.toNat) else 0#1))] }

/-- 42_peripheral_ops.md R79: `PRS` of a button sets its bit and leaves the other seven and everything else;
of any other index a `u8` holds it raises `BUTTON_INDEX` with that index and changes nothing else. (An index of
256 or more is no `u8`: `Obligations.OversizedButtonIndexFaults`.) -/
def Obligations.PressSetsOneBit : Prop :=
  ∀ (index : Nat) (s : State), s.fault.valid = false →
    (index ≤ 7 → ∃ t, exec (.prs index) s = .next t ∧
      (∀ j, j < 8 → t.snapshot.getLsbD j = (decide (j = index) || s.snapshot.getLsbD j)) ∧
      t = { s with snapshot := t.snapshot, outcomes := s.outcomes ++ [.ok .absent] }) ∧
    (7 < index → index < 256 → exec (.prs index) s = .next { s with
      fault := ⟨true, 4, 0, BitVec.ofNat 16 index⟩
      outcomes := s.outcomes ++ [.fault ⟨.buttonIndex, BitVec.ofNat 16 index, .none⟩] })

/-- 42_peripheral_ops.md R80: `RLS` of a button clears its bit and leaves the other seven and everything else;
of any other index a `u8` holds it raises `BUTTON_INDEX` with that index and changes nothing else. (An index of
256 or more is no `u8`: `Obligations.OversizedButtonIndexFaults`.) -/
def Obligations.ReleaseClearsOneBit : Prop :=
  ∀ (index : Nat) (s : State), s.fault.valid = false →
    (index ≤ 7 → ∃ t, exec (.rls index) s = .next t ∧
      (∀ j, j < 8 → t.snapshot.getLsbD j = (!decide (j = index) && s.snapshot.getLsbD j)) ∧
      t = { s with snapshot := t.snapshot, outcomes := s.outcomes ++ [.ok .absent] }) ∧
    (7 < index → index < 256 → exec (.rls index) s = .next { s with
      fault := ⟨true, 4, 0, BitVec.ofNat 16 index⟩
      outcomes := s.outcomes ++ [.fault ⟨.buttonIndex, BitVec.ofNat 16 index, .none⟩] })

/-- The model's choice, log entry 10: an index of 256 or more, which no word spells, raises `BUTTON_INDEX` like
every other index above 7, with its low 16 bits as `info`, and changes nothing else. -/
def Obligations.OversizedButtonIndexFaults : Prop :=
  ∀ (index : Nat) (s : State), s.fault.valid = false → 256 ≤ index →
    ∀ i ∈ [Instr.prs index, .rls index], exec i s = .next { s with
      fault := ⟨true, 4, 0, BitVec.ofNat 16 (index % 0x10000)⟩
      outcomes := s.outcomes ++ [.fault ⟨.buttonIndex, BitVec.ofNat 16 (index % 0x10000), .none⟩] }

/-- 42_peripheral_ops.md R81: after `STB 1`, `STB 0`, read number `k` (here counted from 0) returns bit `k` of
the snapshot for `k` below 8 and 0 from then on, however many reads; the same with no strobe write where the
strobe is low and the cursor 0, as after reset; and while the strobe is high every read returns bit 0. -/
def Obligations.BitStreamAfterStrobe : Prop :=
  (∀ (n : Nat) (s : State), s.fault.valid = false →
    ∃ t, execAll (.stb true :: .stb false :: List.replicate n .rds) s = .next t ∧
      t.outcomes = s.outcomes ++ [.ok .absent, .ok .absent] ++ (List.range n).map fun k =>
        .ok (.bit (if k < 8 then BitVec.ofBool (s.snapshot.getLsbD k) else 0#1))) ∧
  (∀ (n : Nat) (s : State), s.fault.valid = false → s.strobe = false → s.cursor = 0#4 →
    ∃ t, execAll (List.replicate n .rds) s = .next t ∧
      t.outcomes = s.outcomes ++ (List.range n).map fun k =>
        .ok (.bit (if k < 8 then BitVec.ofBool (s.snapshot.getLsbD k) else 0#1))) ∧
  (∀ (n : Nat) (s : State), s.fault.valid = false → s.strobe = true → s.strobePinsCursor →
    execAll (List.replicate n .rds) s = .next { s with
      outcomes := s.outcomes ++ List.replicate n (.ok (.bit (BitVec.ofBool (s.snapshot.getLsbD 0)))) })

/-- 42_peripheral_ops.md R82: a press or release of button `i` is what the next read returns when the cursor
is at `i`, with no strobe write between; at any other cursor it changes nothing the next read returns; and it
does not move the cursor. -/
def Obligations.ButtonChangeIsSeenAtOnce : Prop :=
  ∀ (index : Nat) (s : State), s.fault.valid = false → index ≤ 7 →
    (∃ t u, exec (.prs index) s = .next t ∧ exec .rds t = .next u ∧ t.cursor = s.cursor ∧
      u.outcomes = s.outcomes ++ [.ok .absent, .ok (.bit
        (if s.cursor.toNat = index then 1#1 else snapshotBit s.snapshot s.cursor))]) ∧
    (∃ t u, exec (.rls index) s = .next t ∧ exec .rds t = .next u ∧ t.cursor = s.cursor ∧
      u.outcomes = s.outcomes ++ [.ok .absent, .ok (.bit
        (if s.cursor.toNat = index then 0#1 else snapshotBit s.snapshot s.cursor))])

/-! ## Faults and the halted block -/

/-- 60_exceptions.md R96: an operation of a running block that raises a fault records it with its codes,
returns it as its outcome with no value, saves nothing else, and the block is halted: whatever is issued next is refused, in
either sub-block. A fault is recorded in no other way. -/
def Obligations.FaultEntryRecordsAndHalts : Prop :=
  ∀ (i : Instr) (s t : State), s.fault.valid = false → exec i s = .next t →
    (t.fault.valid = true ↔ ∃ f : FaultInfo, t.outcomes = s.outcomes ++ [.fault f]) ∧
    (∀ f : FaultInfo, t.outcomes = s.outcomes ++ [.fault f] →
      t.fault = ⟨true, f.cause.code, f.comp.code, f.info⟩ ∧
      (t.ram = s.ram ∧ t.snapshot = s.snapshot ∧ t.cursor = s.cursor ∧ t.strobe = s.strobe ∧ t.refs = s.refs) ∧
      ∀ j : Instr, exec j t = .next { t with outcomes := t.outcomes ++ [.refused] }) ∧
    (t.fault.valid = false → t.fault = s.fault)

/-- 60_exceptions.md R97: the state a faulting operation leaves. The store and the peripheral's three fields
are as before; every operation but `RDW` changes the fault record and its outcome alone; an `RDW` keeps what
the read of a low byte that succeeded did, and nothing if the low byte faulted. -/
def Obligations.FaultIsPrecise : Prop :=
  ∀ (i : Instr) (s t : State), s.fault.valid = false → exec i s = .next t → t.fault.valid = true →
    (t.ram = s.ram ∧ t.snapshot = s.snapshot ∧ t.cursor = s.cursor ∧ t.strobe = s.strobe) ∧
    ((∀ a, i ≠ .rdw a) → t = { s with fault := t.fault, outcomes := t.outcomes }) ∧
    (∀ a u, i = .rdw a → exec (.rdb a) s = .next u →
      t = { u with fault := t.fault, outcomes := t.outcomes })

/-- 60_exceptions.md R98: while a fault is recorded every operation, and every step on an issued word, has
outcome `REFUSED`: nothing is read or written, no event is emitted, the fault is not overwritten. -/
def Obligations.HaltedBlockRefusesEverything : Prop :=
  (∀ (i : Instr) (s : State), s.fault.valid = true →
    exec i s = .next { s with outcomes := s.outcomes ++ [.refused] }) ∧
  (∀ (s : State) (w : CommandWord) (rest : List CommandWord), s.fault.valid = true → s.commands = w :: rest →
    step s = .next { s with commands := rest, outcomes := s.outcomes ++ [.refused] })

/-- 70_reset_and_hazards.md R121, 60_exceptions.md R98, over every run: from a halted state, however many
steps are taken, the block's state is the same, no event is added, and every outcome is `REFUSED`. -/
def Obligations.FaultIsForGood : Prop :=
  ∀ (k : Nat) (s t : State), s.fault.valid = true → Host.Core.run Sys2Proof.core k s = .next t →
    s.sameBlock t ∧ t.events = s.events ∧ t.outcomes = s.outcomes ++ List.replicate k .refused

/-- With the owner's duty kept (70_reset_and_hazards.md section 2), an operation of a running block halts it
exactly when one of its byte addresses is fatal (0x4000 to 0x401F, 0xFFFF) or its button index is above 7. -/
def Obligations.DutyKeptHaltsExactlyOnFatalOperands : Prop :=
  ∀ (i : Instr) (s t : State), s.fault.valid = false → s.dutyKept → exec i s = .next t →
    (t.fault.valid = true ↔ (∃ a ∈ i.addresses, Addr.fatal a) ∨ ∃ index, i.button? = some index ∧ 7 < index)

/-- With the owner's duty kept, over every run from a running state the only faults recorded are causes 1, 2
and 4 (95_test_vectors.md part 4). -/
def Obligations.DutyKeptRunsFaultOnlyThreeWays : Prop :=
  ∀ (k : Nat) (s t : State), s.fault.valid = false → s.dutyKept → Host.Core.run Sys2Proof.core k s = .next t →
    t.dutyKept ∧ (t.fault.valid = true → t.fault.cause = 1#3 ∨ t.fault.cause = 2#3 ∨ t.fault.cause = 4#3)

/-! ## The whole machine -/

/-- The invariant holds at reset (the values of 10_state.md section 7). -/
def Obligations.InvariantHoldsAtReset : Prop := State.reset.Inv

/-- 10_state.md R18, R19: "cursor never exceeds 8", and the strobe high means the cursor is 0: both hold at
reset and every step keeps them, so they hold in every reachable state. -/
def Obligations.CursorStaysInRangeAndPinned : Prop :=
  (State.reset.cursor.toNat ≤ 8 ∧ (State.reset.strobe = true → State.reset.cursor = 0#4)) ∧
  ∀ s t : State, step s = .next t →
    (s.cursor.toNat ≤ 8 → t.cursor.toNat ≤ 8) ∧
    ((s.strobe = true → s.cursor = 0#4) → t.strobe = true → t.cursor = 0#4)

/-- Every step from a state with the invariant gives one with it: the store keeps its canonical form, the
cursor stays at most 8 and at 0 while the strobe is high, a recorded fault is one of the rows that can be
raised, the references stay bound, the Mapper is only ever given addresses of its range (10_state.md section
5, 60_exceptions.md section 1, 43_component_ports.md). -/
def Obligations.StepKeepsInvariant : Prop :=
  ∀ s t : State, s.Inv → step s = .next t → t.Inv

/-- 00_scope.md R6: every operation, in every state, completes with exactly one outcome: `OK` with a value of
its own form, a fault that is recorded, or `REFUSED`, which is the halted block's and changes nothing; a word
that spells no operation has outcome `REFUSED` too. (R7: the events of an operation follow the earlier ones;
there are at most two.) -/
def Obligations.EveryOperationHasOneOutcome : Prop :=
  (∀ (i : Instr) (s : State), ∃ t r, exec i s = .next t ∧ t.outcomes = s.outcomes ++ [r] ∧
    (∃ es, t.events = s.events ++ es ∧ es.length ≤ 2) ∧
    (r = .refused ↔ s.fault.valid = true) ∧
    (r = .refused → t = { s with outcomes := s.outcomes ++ [.refused] }) ∧
    ((∃ f, r = .fault f) ↔ s.fault.valid = false ∧ t.fault.valid = true) ∧
    (∀ v, r = .ok v → match i with
      | .rdb _ => ∃ b, v = .byte b
      | .wrb _ _ => v = .absent
      | .rdw _ => ∃ h, v = .word h
      | .stb _ => v = .absent
      | .rds => ∃ b, v = .bit b
      | .prs _ => v = .absent
      | .rls _ => v = .absent)) ∧
  (∀ (s : State) (w : CommandWord) (rest : List CommandWord), s.commands = w :: rest → (decode w).instr? = none →
    step s = .next { s with commands := rest, outcomes := s.outcomes ++ [.refused] })

/-- 10_state.md R20, the frame: a router operation leaves the peripheral's three fields; a peripheral operation
leaves the store and emits no event; a read leaves the store; `STB` and `RDS` leave the snapshot; `PRS` and
`RLS` leave the cursor and the strobe; `RDS` leaves the strobe; the references never change; the fault record
changes only from a running state. -/
def Obligations.OperationsChangeOnlyTheirOwnState : Prop :=
  ∀ (i : Instr) (s t : State), exec i s = .next t →
    (i.subBlock = .router → t.snapshot = s.snapshot ∧ t.cursor = s.cursor ∧ t.strobe = s.strobe) ∧
    (i.subBlock = .peripheral → t.ram = s.ram ∧ t.events = s.events ∧ t.env = s.env ∧ t.draws = s.draws) ∧
    ((∀ a v, i ≠ .wrb a v) → t.ram = s.ram) ∧
    ((∀ index, i ≠ .prs index ∧ i ≠ .rls index) → t.snapshot = s.snapshot) ∧
    ((∀ on, i ≠ .stb on) → t.strobe = s.strobe) ∧
    (i ≠ .rds → (∀ on, i ≠ .stb on) → t.cursor = s.cursor) ∧
    t.refs = s.refs ∧ t.commands = s.commands ∧ (s.fault.valid = true → t.fault = s.fault)

/-- No bus operation reads the peripheral's state (20_memory.md section 2, "The Shift-Register Peripheral is at
no address"): with other peripheral registers a router operation does the same and leaves them. -/
def Obligations.RouterIgnoresPeripheral : Prop :=
  ∀ (i : Instr) (s t : State) (snapshot : Byte) (cursor : BitVec 4) (strobe : Bool), i.subBlock = .router →
    exec i s = .next t →
    exec i (s.withPeripheral snapshot cursor strobe) = .next (t.withPeripheral snapshot cursor strobe)

/-- No peripheral operation reads the router's state, the ports' history or the environment (10_state.md
section 5, the frame rule): with others it does the same and leaves them. -/
def Obligations.PeripheralIgnoresRouter : Prop :=
  ∀ (i : Instr) (s t : State) (ram : Memory) (events : List Event) (env : List Moment) (draws : Nat),
    i.subBlock = .peripheral → exec i s = .next t →
    exec i (s.withRouter ram events env draws) = .next (t.withRouter ram events env draws)

/-- 43_component_ports.md R88: no rule reads `ref_cpu`, and whatever it is bound to no operation behaves
differently, so it can cause no fault. -/
def Obligations.ProcessorReferenceIsNeverRead : Prop :=
  ∀ (i : Instr) (s t : State) (c : Component), exec i s = .next t →
    exec i { s with refs := { s.refs with cpu := c } } = .next { t with refs := { t.refs with cpu := c } }

/-- The Button agent shares only the snapshot with the Driver (00_scope.md section 5; 60_exceptions.md section
4, multiprocessing): its operations change nothing but the snapshot, the fault record and the outcomes, and no
Driver operation changes the snapshot. -/
def Obligations.AgentsShareOnlySnapshot : Prop :=
  ∀ (i : Instr) (s t : State), exec i s = .next t →
    (i.agent = .button → t = { s with snapshot := t.snapshot, fault := t.fault, outcomes := t.outcomes }) ∧
    (i.agent = .driver → t.snapshot = s.snapshot)
end

