-- ==== Sys2Proof/Laws/State.lean ====
section
/-! SUPPORT. One lemma per field per update of State: what each update writes and what it leaves. -/

namespace Sys2Proof.Machine

variable (s : State)

/-! ## setRam -/

@[simp] theorem State.setRam_ram (m : Memory) : (s.setRam m).ram = m := rfl
@[simp] theorem State.setRam_snapshot (m : Memory) : (s.setRam m).snapshot = s.snapshot := rfl
@[simp] theorem State.setRam_cursor (m : Memory) : (s.setRam m).cursor = s.cursor := rfl
@[simp] theorem State.setRam_strobe (m : Memory) : (s.setRam m).strobe = s.strobe := rfl
@[simp] theorem State.setRam_fault (m : Memory) : (s.setRam m).fault = s.fault := rfl
@[simp] theorem State.setRam_refs (m : Memory) : (s.setRam m).refs = s.refs := rfl
@[simp] theorem State.setRam_events (m : Memory) : (s.setRam m).events = s.events := rfl
@[simp] theorem State.setRam_outcomes (m : Memory) : (s.setRam m).outcomes = s.outcomes := rfl
@[simp] theorem State.setRam_commands (m : Memory) : (s.setRam m).commands = s.commands := rfl
@[simp] theorem State.setRam_env (m : Memory) : (s.setRam m).env = s.env := rfl
@[simp] theorem State.setRam_draws (m : Memory) : (s.setRam m).draws = s.draws := rfl

/-! ## setSnapshot -/

@[simp] theorem State.setSnapshot_ram (v : Byte) : (s.setSnapshot v).ram = s.ram := rfl
@[simp] theorem State.setSnapshot_snapshot (v : Byte) : (s.setSnapshot v).snapshot = v := rfl
@[simp] theorem State.setSnapshot_cursor (v : Byte) : (s.setSnapshot v).cursor = s.cursor := rfl
@[simp] theorem State.setSnapshot_strobe (v : Byte) : (s.setSnapshot v).strobe = s.strobe := rfl
@[simp] theorem State.setSnapshot_fault (v : Byte) : (s.setSnapshot v).fault = s.fault := rfl
@[simp] theorem State.setSnapshot_refs (v : Byte) : (s.setSnapshot v).refs = s.refs := rfl
@[simp] theorem State.setSnapshot_events (v : Byte) : (s.setSnapshot v).events = s.events := rfl
@[simp] theorem State.setSnapshot_outcomes (v : Byte) : (s.setSnapshot v).outcomes = s.outcomes := rfl
@[simp] theorem State.setSnapshot_commands (v : Byte) : (s.setSnapshot v).commands = s.commands := rfl
@[simp] theorem State.setSnapshot_env (v : Byte) : (s.setSnapshot v).env = s.env := rfl
@[simp] theorem State.setSnapshot_draws (v : Byte) : (s.setSnapshot v).draws = s.draws := rfl

/-! ## setCursor -/

@[simp] theorem State.setCursor_ram (c : BitVec 4) : (s.setCursor c).ram = s.ram := rfl
@[simp] theorem State.setCursor_snapshot (c : BitVec 4) : (s.setCursor c).snapshot = s.snapshot := rfl
@[simp] theorem State.setCursor_cursor (c : BitVec 4) : (s.setCursor c).cursor = c := rfl
@[simp] theorem State.setCursor_strobe (c : BitVec 4) : (s.setCursor c).strobe = s.strobe := rfl
@[simp] theorem State.setCursor_fault (c : BitVec 4) : (s.setCursor c).fault = s.fault := rfl
@[simp] theorem State.setCursor_refs (c : BitVec 4) : (s.setCursor c).refs = s.refs := rfl
@[simp] theorem State.setCursor_events (c : BitVec 4) : (s.setCursor c).events = s.events := rfl
@[simp] theorem State.setCursor_outcomes (c : BitVec 4) : (s.setCursor c).outcomes = s.outcomes := rfl
@[simp] theorem State.setCursor_commands (c : BitVec 4) : (s.setCursor c).commands = s.commands := rfl
@[simp] theorem State.setCursor_env (c : BitVec 4) : (s.setCursor c).env = s.env := rfl
@[simp] theorem State.setCursor_draws (c : BitVec 4) : (s.setCursor c).draws = s.draws := rfl

/-! ## setStrobe -/

@[simp] theorem State.setStrobe_ram (on : Bool) : (s.setStrobe on).ram = s.ram := rfl
@[simp] theorem State.setStrobe_snapshot (on : Bool) : (s.setStrobe on).snapshot = s.snapshot := rfl
@[simp] theorem State.setStrobe_cursor (on : Bool) : (s.setStrobe on).cursor = s.cursor := rfl
@[simp] theorem State.setStrobe_strobe (on : Bool) : (s.setStrobe on).strobe = on := rfl
@[simp] theorem State.setStrobe_fault (on : Bool) : (s.setStrobe on).fault = s.fault := rfl
@[simp] theorem State.setStrobe_refs (on : Bool) : (s.setStrobe on).refs = s.refs := rfl
@[simp] theorem State.setStrobe_events (on : Bool) : (s.setStrobe on).events = s.events := rfl
@[simp] theorem State.setStrobe_outcomes (on : Bool) : (s.setStrobe on).outcomes = s.outcomes := rfl
@[simp] theorem State.setStrobe_commands (on : Bool) : (s.setStrobe on).commands = s.commands := rfl
@[simp] theorem State.setStrobe_env (on : Bool) : (s.setStrobe on).env = s.env := rfl
@[simp] theorem State.setStrobe_draws (on : Bool) : (s.setStrobe on).draws = s.draws := rfl

/-! ## setFault -/

@[simp] theorem State.setFault_ram (r : FaultRecord) : (s.setFault r).ram = s.ram := rfl
@[simp] theorem State.setFault_snapshot (r : FaultRecord) : (s.setFault r).snapshot = s.snapshot := rfl
@[simp] theorem State.setFault_cursor (r : FaultRecord) : (s.setFault r).cursor = s.cursor := rfl
@[simp] theorem State.setFault_strobe (r : FaultRecord) : (s.setFault r).strobe = s.strobe := rfl
@[simp] theorem State.setFault_fault (r : FaultRecord) : (s.setFault r).fault = r := rfl
@[simp] theorem State.setFault_refs (r : FaultRecord) : (s.setFault r).refs = s.refs := rfl
@[simp] theorem State.setFault_events (r : FaultRecord) : (s.setFault r).events = s.events := rfl
@[simp] theorem State.setFault_outcomes (r : FaultRecord) : (s.setFault r).outcomes = s.outcomes := rfl
@[simp] theorem State.setFault_commands (r : FaultRecord) : (s.setFault r).commands = s.commands := rfl
@[simp] theorem State.setFault_env (r : FaultRecord) : (s.setFault r).env = s.env := rfl
@[simp] theorem State.setFault_draws (r : FaultRecord) : (s.setFault r).draws = s.draws := rfl

/-! ## setCommands -/

@[simp] theorem State.setCommands_ram (ws : List CommandWord) : (s.setCommands ws).ram = s.ram := rfl
@[simp] theorem State.setCommands_snapshot (ws : List CommandWord) : (s.setCommands ws).snapshot = s.snapshot := rfl
@[simp] theorem State.setCommands_cursor (ws : List CommandWord) : (s.setCommands ws).cursor = s.cursor := rfl
@[simp] theorem State.setCommands_strobe (ws : List CommandWord) : (s.setCommands ws).strobe = s.strobe := rfl
@[simp] theorem State.setCommands_fault (ws : List CommandWord) : (s.setCommands ws).fault = s.fault := rfl
@[simp] theorem State.setCommands_refs (ws : List CommandWord) : (s.setCommands ws).refs = s.refs := rfl
@[simp] theorem State.setCommands_events (ws : List CommandWord) : (s.setCommands ws).events = s.events := rfl
@[simp] theorem State.setCommands_outcomes (ws : List CommandWord) : (s.setCommands ws).outcomes = s.outcomes := rfl
@[simp] theorem State.setCommands_commands (ws : List CommandWord) : (s.setCommands ws).commands = ws := rfl
@[simp] theorem State.setCommands_env (ws : List CommandWord) : (s.setCommands ws).env = s.env := rfl
@[simp] theorem State.setCommands_draws (ws : List CommandWord) : (s.setCommands ws).draws = s.draws := rfl

/-! ## emit -/

@[simp] theorem State.emit_ram (e : Event) : (s.emit e).ram = s.ram := rfl
@[simp] theorem State.emit_snapshot (e : Event) : (s.emit e).snapshot = s.snapshot := rfl
@[simp] theorem State.emit_cursor (e : Event) : (s.emit e).cursor = s.cursor := rfl
@[simp] theorem State.emit_strobe (e : Event) : (s.emit e).strobe = s.strobe := rfl
@[simp] theorem State.emit_fault (e : Event) : (s.emit e).fault = s.fault := rfl
@[simp] theorem State.emit_refs (e : Event) : (s.emit e).refs = s.refs := rfl
@[simp] theorem State.emit_events (e : Event) : (s.emit e).events = s.events ++ [e] := rfl
@[simp] theorem State.emit_outcomes (e : Event) : (s.emit e).outcomes = s.outcomes := rfl
@[simp] theorem State.emit_commands (e : Event) : (s.emit e).commands = s.commands := rfl
@[simp] theorem State.emit_env (e : Event) : (s.emit e).env = s.env := rfl
@[simp] theorem State.emit_draws (e : Event) : (s.emit e).draws = s.draws := rfl

/-! ## respond -/

@[simp] theorem State.respond_ram (r : Result) : (s.respond r).ram = s.ram := rfl
@[simp] theorem State.respond_snapshot (r : Result) : (s.respond r).snapshot = s.snapshot := rfl
@[simp] theorem State.respond_cursor (r : Result) : (s.respond r).cursor = s.cursor := rfl
@[simp] theorem State.respond_strobe (r : Result) : (s.respond r).strobe = s.strobe := rfl
@[simp] theorem State.respond_fault (r : Result) : (s.respond r).fault = s.fault := rfl
@[simp] theorem State.respond_refs (r : Result) : (s.respond r).refs = s.refs := rfl
@[simp] theorem State.respond_events (r : Result) : (s.respond r).events = s.events := rfl
@[simp] theorem State.respond_outcomes (r : Result) : (s.respond r).outcomes = s.outcomes ++ [r] := rfl
@[simp] theorem State.respond_commands (r : Result) : (s.respond r).commands = s.commands := rfl
@[simp] theorem State.respond_env (r : Result) : (s.respond r).env = s.env := rfl
@[simp] theorem State.respond_draws (r : Result) : (s.respond r).draws = s.draws := rfl

/-! ## passMoment -/

@[simp] theorem State.passMoment_ram : (s.passMoment).ram = s.ram := rfl
@[simp] theorem State.passMoment_snapshot : (s.passMoment).snapshot = s.snapshot := rfl
@[simp] theorem State.passMoment_cursor : (s.passMoment).cursor = s.cursor := rfl
@[simp] theorem State.passMoment_strobe : (s.passMoment).strobe = s.strobe := rfl
@[simp] theorem State.passMoment_fault : (s.passMoment).fault = s.fault := rfl
@[simp] theorem State.passMoment_refs : (s.passMoment).refs = s.refs := rfl
@[simp] theorem State.passMoment_events : (s.passMoment).events = s.events := rfl
@[simp] theorem State.passMoment_outcomes : (s.passMoment).outcomes = s.outcomes := rfl
@[simp] theorem State.passMoment_commands : (s.passMoment).commands = s.commands := rfl
@[simp] theorem State.passMoment_env : (s.passMoment).env = s.env.tail := rfl
@[simp] theorem State.passMoment_draws : (s.passMoment).draws = s.draws + 1 := rfl

/-! ## takeFault -/

@[simp] theorem State.takeFault_ram (f : FaultInfo) : (s.takeFault f).ram = s.ram := rfl
@[simp] theorem State.takeFault_snapshot (f : FaultInfo) : (s.takeFault f).snapshot = s.snapshot := rfl
@[simp] theorem State.takeFault_cursor (f : FaultInfo) : (s.takeFault f).cursor = s.cursor := rfl
@[simp] theorem State.takeFault_strobe (f : FaultInfo) : (s.takeFault f).strobe = s.strobe := rfl
@[simp] theorem State.takeFault_fault (f : FaultInfo) : (s.takeFault f).fault = f.record := rfl
@[simp] theorem State.takeFault_refs (f : FaultInfo) : (s.takeFault f).refs = s.refs := rfl
@[simp] theorem State.takeFault_events (f : FaultInfo) : (s.takeFault f).events = s.events := rfl
@[simp] theorem State.takeFault_outcomes (f : FaultInfo) : (s.takeFault f).outcomes = s.outcomes ++ [.fault f] := rfl
@[simp] theorem State.takeFault_commands (f : FaultInfo) : (s.takeFault f).commands = s.commands := rfl
@[simp] theorem State.takeFault_env (f : FaultInfo) : (s.takeFault f).env = s.env := rfl
@[simp] theorem State.takeFault_draws (f : FaultInfo) : (s.takeFault f).draws = s.draws := rfl

/-! ## issue -/

@[simp] theorem State.issue_ram (w : CommandWord) : (s.issue w).ram = s.ram := rfl
@[simp] theorem State.issue_snapshot (w : CommandWord) : (s.issue w).snapshot = s.snapshot := rfl
@[simp] theorem State.issue_cursor (w : CommandWord) : (s.issue w).cursor = s.cursor := rfl
@[simp] theorem State.issue_strobe (w : CommandWord) : (s.issue w).strobe = s.strobe := rfl
@[simp] theorem State.issue_fault (w : CommandWord) : (s.issue w).fault = s.fault := rfl
@[simp] theorem State.issue_refs (w : CommandWord) : (s.issue w).refs = s.refs := rfl
@[simp] theorem State.issue_events (w : CommandWord) : (s.issue w).events = s.events := rfl
@[simp] theorem State.issue_outcomes (w : CommandWord) : (s.issue w).outcomes = s.outcomes := rfl
@[simp] theorem State.issue_commands (w : CommandWord) : (s.issue w).commands = w :: s.commands := rfl
@[simp] theorem State.issue_env (w : CommandWord) : (s.issue w).env = s.env := rfl
@[simp] theorem State.issue_draws (w : CommandWord) : (s.issue w).draws = s.draws := rfl

/-! ## Halted -/

theorem State.halted_eq : s.halted = s.fault.valid := rfl

@[simp] theorem State.takeFault_halted (f : FaultInfo) : (s.takeFault f).halted = true := rfl

end Sys2Proof.Machine
end

