-- ==== Sys2Proof/Laws/Memory.lean ====
section
/-! SUPPORT. The Linear Store's cells: reading after writing, and the canonical form kept. -/

namespace Sys2Proof.Machine

/-- What the canonical form says of a listed cell. -/
theorem Memory.wfFrom_cons {lo k : Nat} {v : Byte} {rest : Memory} :
    Memory.wfFrom lo ((k, v) :: rest) = true ↔
      lo ≤ k ∧ k < 0x800 ∧ v ≠ Memory.unlisted ∧ Memory.wfFrom (k + 1) rest = true := by
  simp [Memory.wfFrom, and_assoc]

/-- A canonical list may be read as starting lower. -/
theorem Memory.wfFrom_mono {lo lo' : Nat} (h : lo' ≤ lo) :
    ∀ {m : Memory}, Memory.wfFrom lo m = true → Memory.wfFrom lo' m = true
  | [], _ => rfl
  | (_, _) :: _, hm => by
    rw [Memory.wfFrom_cons] at hm ⊢
    exact ⟨h.trans hm.1, hm.2⟩

/-- Below the first index of a canonical list every cell reads as unlisted. -/
theorem Memory.read_below {i : Nat} :
    ∀ {m : Memory} {lo : Nat}, Memory.wfFrom lo m = true → i < lo → Memory.read m i = Memory.unlisted
  | [], _, _, _ => rfl
  | (k, v) :: rest, lo, hm, hi => by
    rw [Memory.wfFrom_cons] at hm
    rw [Memory.read, if_neg (by omega)]
    exact Memory.read_below hm.2.2.2 (by omega)

theorem Memory.read_cons_same {i : Nat} {v : Byte} {rest : Memory}
    (h : Memory.read rest i = Memory.unlisted) : Memory.read (Memory.cons i v rest) i = v := by
  unfold Memory.cons
  split
  · rw [h]; exact Eq.symm ‹_›
  · simp [Memory.read]

theorem Memory.read_cons_other {i j : Nat} {v : Byte} {rest : Memory} (h : j ≠ i) :
    Memory.read (Memory.cons i v rest) j = Memory.read rest j := by
  unfold Memory.cons
  split
  · rfl
  · rw [Memory.read, if_neg (Ne.symm h)]

/-- A write leaves every other cell alone, whatever the list. -/
theorem Memory.read_write_other {i j : Nat} {v : Byte} (h : j ≠ i) :
    ∀ m : Memory, Memory.read (Memory.write m i v) j = Memory.read m j
  | [] => by rw [Memory.write, Memory.read_cons_other h]
  | (k, w) :: rest => by
    unfold Memory.write
    split
    · exact Memory.read_cons_other h
    · split
      · rw [Memory.read_cons_other h, Memory.read, if_neg (by omega)]
      · by_cases hk : k = j
        · simp [Memory.read, hk]
        · simp [Memory.read, hk, Memory.read_write_other h rest]

/-- A read of the cell just written gives the byte written. -/
theorem Memory.read_write_same {i : Nat} {v : Byte} :
    ∀ {m : Memory} {lo : Nat}, Memory.wfFrom lo m = true → Memory.read (Memory.write m i v) i = v
  | [], _, _ => by rw [Memory.write, Memory.read_cons_same rfl]
  | (k, w) :: rest, lo, hm => by
    have hm' := Memory.wfFrom_cons.1 hm
    unfold Memory.write
    split
    · rename_i hik
      refine Memory.read_cons_same ?_
      rw [Memory.read, if_neg (by omega)]
      exact Memory.read_below hm'.2.2.2 (by omega)
    · split
      · exact Memory.read_cons_same (Memory.read_below hm'.2.2.2 (by omega))
      · rw [Memory.read, if_neg (by omega)]
        exact Memory.read_write_same hm'.2.2.2

/-- Read after write, over a canonical store. -/
theorem Memory.read_write {m : Memory} (hm : m.wf = true) (i j : Nat) (v : Byte) :
    Memory.read (Memory.write m i v) j = if j = i then v else Memory.read m j := by
  split
  · subst j; exact Memory.read_write_same hm
  · exact Memory.read_write_other ‹_› m

theorem Memory.cons_wfFrom {lo i : Nat} {v : Byte} {rest : Memory} (hlo : lo ≤ i) (hi : i < 0x800)
    (h : Memory.wfFrom (i + 1) rest = true) : Memory.wfFrom lo (Memory.cons i v rest) = true := by
  unfold Memory.cons
  split
  · exact Memory.wfFrom_mono (by omega) h
  · exact Memory.wfFrom_cons.2 ⟨hlo, hi, ‹_›, h⟩

theorem Memory.write_wfFrom {i : Nat} {v : Byte} (hi : i < 0x800) :
    ∀ {m : Memory} {lo : Nat}, Memory.wfFrom lo m = true → lo ≤ i →
      Memory.wfFrom lo (Memory.write m i v) = true
  | [], _, _, hlo => Memory.cons_wfFrom hlo hi rfl
  | (k, w) :: rest, lo, hm, hlo => by
    have hm' := Memory.wfFrom_cons.1 hm
    unfold Memory.write
    split
    · exact Memory.cons_wfFrom hlo hi (Memory.wfFrom_cons.2 ⟨by omega, hm'.2⟩)
    · split
      · exact Memory.cons_wfFrom hlo hi (Memory.wfFrom_mono (by omega) hm'.2.2.2)
      · exact Memory.wfFrom_cons.2
          ⟨hm'.1, hm'.2.1, hm'.2.2.1, Memory.write_wfFrom hi hm'.2.2.2 (by omega)⟩

/-- Every write inside the store keeps the canonical form. -/
theorem Memory.write_wf {m : Memory} (hm : m.wf = true) {i : Nat} (hi : i < 0x800) (v : Byte) :
    (Memory.write m i v).wf = true :=
  Memory.write_wfFrom hi hm (Nat.zero_le i)

@[simp] theorem Memory.read_nil (i : Nat) : Memory.read [] i = 0x00#8 := rfl

end Sys2Proof.Machine
end

