-- ==== Sys2Proof/Laws/Operands.lean ====
section
/-! SUPPORT. What the classifier, the transforms and the status computations answer. -/

namespace Sys2Proof.Machine

/-! ## The class of an address, by its number -/

theorem classify_ram {a : Addr} (h : a.toNat ≤ 0x1FFF) : classify a = .ram := by
  simp [classify, BitVec.le_def, h]

theorem classify_ppu {a : Addr} (lo : 0x2000 ≤ a.toNat) (hi : a.toNat ≤ 0x3FFF) : classify a = .ppu := by
  simp [classify, BitVec.le_def, hi, show ¬ a.toNat ≤ 8191 by omega]

theorem classify_apuio {a : Addr} (lo : 0x4000 ≤ a.toNat) (hi : a.toNat ≤ 0x4017) : classify a = .apuio := by
  simp [classify, BitVec.le_def, hi, show ¬ a.toNat ≤ 8191 by omega, show ¬ a.toNat ≤ 16383 by omega]

theorem classify_test {a : Addr} (lo : 0x4018 ≤ a.toNat) (hi : a.toNat ≤ 0x401F) : classify a = .test := by
  simp [classify, BitVec.le_def, hi, show ¬ a.toNat ≤ 8191 by omega, show ¬ a.toNat ≤ 16383 by omega,
    show ¬ a.toNat ≤ 16407 by omega]

theorem classify_mapper {a : Addr} (lo : 0x4020 ≤ a.toNat) (hi : a.toNat ≤ 0xFFFE) : classify a = .mapper := by
  simp [classify, BitVec.le_def, hi, show ¬ a.toNat ≤ 8191 by omega, show ¬ a.toNat ≤ 16383 by omega,
    show ¬ a.toNat ≤ 16407 by omega, show ¬ a.toNat ≤ 16415 by omega]

theorem classify_invalid : classify 0xFFFF#16 = .invalid := by decide

/-- The classes by number, all six at once. -/
theorem classify_cases (a : Addr) :
    (a.toNat ≤ 0x1FFF ∧ classify a = .ram) ∨
    (0x2000 ≤ a.toNat ∧ a.toNat ≤ 0x3FFF ∧ classify a = .ppu) ∨
    (0x4000 ≤ a.toNat ∧ a.toNat ≤ 0x4017 ∧ classify a = .apuio) ∨
    (0x4018 ≤ a.toNat ∧ a.toNat ≤ 0x401F ∧ classify a = .test) ∨
    (0x4020 ≤ a.toNat ∧ a.toNat ≤ 0xFFFE ∧ classify a = .mapper) ∨
    (a = 0xFFFF#16 ∧ classify a = .invalid) := by
  have hb := a.isLt
  rcases Nat.lt_or_ge a.toNat 0x2000 with h | h
  · exact .inl ⟨by omega, classify_ram (by omega)⟩
  rcases Nat.lt_or_ge a.toNat 0x4000 with h2 | h2
  · exact .inr (.inl ⟨h, by omega, classify_ppu h (by omega)⟩)
  rcases Nat.lt_or_ge a.toNat 0x4018 with h3 | h3
  · exact .inr (.inr (.inl ⟨h2, by omega, classify_apuio h2 (by omega)⟩))
  rcases Nat.lt_or_ge a.toNat 0x4020 with h4 | h4
  · exact .inr (.inr (.inr (.inl ⟨h3, by omega, classify_test h3 (by omega)⟩)))
  rcases Nat.lt_or_ge a.toNat 0xFFFF with h5 | h5
  · exact .inr (.inr (.inr (.inr (.inl ⟨h4, by omega, classify_mapper h4 (by omega)⟩))))
  · have : a = 0xFFFF#16 := BitVec.eq_of_toNat_eq (by simp; omega)
    exact .inr (.inr (.inr (.inr (.inr ⟨this, this ▸ classify_invalid⟩))))

/-! ## Transforms -/

theorem storeIndex_lt (a : Addr) : storeIndex a < 0x800 := Nat.mod_lt _ (by decide)

theorem nextAddr_toNat (a : Addr) : (nextAddr a).toNat = (a.toNat + 1) % 65536 := by
  simp [nextAddr, BitVec.toNat_add]

/-- In the window the subtraction never borrows (20_memory.md R52 (b)). -/
theorem ppuReg_eq {a : Addr} (lo : 0x2000 ≤ a.toNat) : ppuReg a = BitVec.ofNat 3 ((a.toNat - 0x2000) % 8) := by
  have hb := a.isLt
  have : (a - Config.ppuBase).toNat = a.toNat - 0x2000 := by
    simp [BitVec.toNat_sub, Config.ppuBase]; omega
  rw [ppuReg, this]

theorem joinBytes_eq (high low : Byte) : joinBytes high low = high ++ low := by
  have hh := high.isLt
  have hl := low.isLt
  apply BitVec.eq_of_toNat_eq
  simp only [joinBytes, BitVec.toNat_or, BitVec.toNat_shiftLeft, BitVec.toNat_setWidth, BitVec.toNat_append]
  rw [Nat.mod_eq_of_lt (show high.toNat < 2 ^ 16 by omega), Nat.mod_eq_of_lt (show low.toNat < 2 ^ 16 by omega),
    Nat.mod_eq_of_lt (by rw [Nat.shiftLeft_eq]; omega)]

/-! ## The peripheral's status -/

/-- The bit law by position: 0 from the eighth on (42_peripheral_ops.md R76). -/
theorem snapshotBit_eq (v : Byte) (c : BitVec 4) :
    snapshotBit v c = if c.toNat < 8 then BitVec.ofBool (v.getLsbD c.toNat) else 0 := by
  have h : snapshotBit v c = BitVec.ofBool (v.getLsbD c.toNat) := by
    ext i hi
    have : i = 0 := by omega
    subst i
    simp [snapshotBit]
  split
  · exact h
  · rw [h, BitVec.getLsbD_of_ge v _ (by omega)]; rfl

theorem cursorAdvanced_toNat (c : BitVec 4) : (cursorAdvanced c).toNat = min (c.toNat + 1) 8 := by
  simp only [cursorAdvanced, BitVec.toNat_ofNat, Config.cursorMax]
  omega

/-- The bit mask of a button. -/
theorem buttonMask_getLsbD {index j : Nat} (hj : j < 8) :
    (buttonMask index).getLsbD j = decide (j = index) := by
  simp only [buttonMask, BitVec.getLsbD_shiftLeft]
  by_cases h : j = index
  · subst h; simp [hj]
  · rcases Nat.lt_or_ge j index with hlt | hge
    · simp [hj, h, hlt]
    · have : j - index ≠ 0 := by omega
      simp [hj, h, this]

theorem snapshotPressed_getLsbD {v : Byte} {index j : Nat} (hj : j < 8) :
    (snapshotPressed v index).getLsbD j = (decide (j = index) || v.getLsbD j) := by
  simp [snapshotPressed, buttonMask_getLsbD hj, Bool.or_comm]

theorem snapshotReleased_getLsbD {v : Byte} {index j : Nat} (hj : j < 8) :
    (snapshotReleased v index).getLsbD j = (!decide (j = index) && v.getLsbD j) := by
  rw [snapshotReleased, BitVec.getLsbD_and, BitVec.getLsbD_not, buttonMask_getLsbD hj, Bool.and_comm]
  simp [hj]

end Sys2Proof.Machine
end

