-- ==== Sys2Proof/Laws/Access.lean ====
section
/-! SUPPORT. What each shared operation can do, once: ending an operation, the store's primitives, resolution,
one byte read, one byte write. -/

namespace Sys2Proof.Machine

/-! ## Ending -/

@[simp] theorem Access.andThen_done {α β : Type} (v : α) (s : State) (k : α → State → Access β) :
    (Access.done v s).andThen k = k v s := rfl

@[simp] theorem Access.andThen_raised {α β : Type} (f : FaultInfo) (s : State) (k : α → State → Access β) :
    (Access.raised f s).andThen k = .raised f s := rfl

@[simp] theorem Access.as_done {α : Type} (v : α) (s : State) (form : α → Value) :
    (Access.done v s).as form = .done (form v) s := rfl

@[simp] theorem Access.as_raised {α : Type} (f : FaultInfo) (s : State) (form : α → Value) :
    (Access.raised f s).as form = .raised f s := rfl

@[simp] theorem Access.finish_done (v : Value) (s : State) : (Access.done v s).finish = s.respond (.ok v) := rfl

@[simp] theorem Access.finish_raised (f : FaultInfo) (s : State) : (Access.raised f s).finish = s.takeFault f := rfl

/-- On a running block the body runs to completion. -/
theorem perform_running {s : State} (h : s.fault.valid = false) (body : State → Access Value) :
    perform body s = .next (body s).finish := by
  simp [perform, State.halted_eq, h]

/-- A halted block answers `REFUSED`. -/
theorem perform_halted {s : State} (h : s.fault.valid = true) (body : State → Access Value) :
    perform body s = .next (s.respond .refused) := by
  simp [perform, State.halted_eq, h]

/-- Every meaning is one body performed whole. -/
def bodyOf : Instr → State → Access Value
  | .rdb a => fun t => (readByte a t).as .byte
  | .wrb a v => fun t => (writeByte a v t).as fun _ => .absent
  | .rdw a => fun t => (readWord a t).as .word
  | .stb on => writeStrobe on
  | .rds => readBit
  | .prs index => press index
  | .rls index => release index

/-- The one lemma about dispatch: later proofs split on `bodyOf`, not on `exec`. -/
theorem exec_eq_perform (i : Instr) (s : State) : exec i s = perform (bodyOf i) s := by
  cases i <;> rfl

/-! ## The store -/

theorem storeRead_inside {index : Nat} (h : index < 0x800) (s : State) :
    storeRead index s = .done (s.ram.read index) s := by
  simp [storeRead, show ¬ 2048 ≤ index by omega]

theorem storeWrite_inside {index : Nat} (h : index < 0x800) (v : Byte) (s : State) :
    storeWrite index v s = .done () (s.setRam (s.ram.write index v)) := by
  simp [storeWrite, show ¬ 2048 ≤ index by omega]

/-! ## Resolution -/

theorem resolvePpu_available {s : State} (h : s.availPpu = true) (a : Addr) : resolvePpu a s = .done () s := by
  simp [resolvePpu, h]

theorem resolvePpu_unavailable {s : State} (h : s.availPpu = false) (a : Addr) :
    resolvePpu a s = .raised ⟨.unresolvedReference, a, .ppu⟩ s := by
  simp [resolvePpu, h]

theorem resolveMapper_available {s : State} (h : s.availMap = true) (a : Addr) :
    resolveMapper a s = .done () s := by
  simp [resolveMapper, h]

theorem resolveMapper_unavailable {s : State} (h : s.availMap = false) (a : Addr) :
    resolveMapper a s = .raised ⟨.unresolvedReference, a, .mapper⟩ s := by
  simp [resolveMapper, h]

/-! ## One byte read -/

/-- Everything a byte read can do. -/
inductive ByteRead (a : Addr) (s : State) : Access Byte → Prop where
  | store : a.toNat ≤ 0x1FFF → ByteRead a s (.done (s.ram.read (a.toNat % 0x800)) s)
  | picture : 0x2000 ≤ a.toNat → a.toNat ≤ 0x3FFF → s.availPpu = true →
      ByteRead a s (.done (s.ppuAnswer (ppuReg a)) (s.emit (.ppuRead (ppuReg a))).passMoment)
  | pictureGone : 0x2000 ≤ a.toNat → a.toNat ≤ 0x3FFF → s.availPpu = false →
      ByteRead a s (.raised ⟨.unresolvedReference, a, .ppu⟩ s)
  | unimplemented : 0x4000 ≤ a.toNat → a.toNat ≤ 0x401F →
      ByteRead a s (.raised ⟨.unimplementedRegion, a, .none⟩ s)
  | mapper : 0x4020 ≤ a.toNat → a.toNat ≤ 0xFFFE → s.availMap = true →
      ByteRead a s (.done (s.mapAnswer a) (s.emit (.mapRead a)).passMoment)
  | mapperGone : 0x4020 ≤ a.toNat → a.toNat ≤ 0xFFFE → s.availMap = false →
      ByteRead a s (.raised ⟨.unresolvedReference, a, .mapper⟩ s)
  | invalid : a = 0xFFFF#16 → ByteRead a s (.raised ⟨.invalidAddress, a, .none⟩ s)

theorem readByte_cases (a : Addr) (s : State) : ByteRead a s (readByte a s) := by
  rcases classify_cases a with ⟨h, hc⟩ | ⟨h, h', hc⟩ | ⟨h, h', hc⟩ | ⟨h, h', hc⟩ | ⟨h, h', hc⟩ | ⟨h, hc⟩
  · simp only [readByte, hc, storeRead_inside (storeIndex_lt a)]
    exact .store h
  · cases hp : s.availPpu
    · simp only [readByte, hc, resolvePpu_unavailable hp]
      exact .pictureGone h h' hp
    · simp only [readByte, hc, resolvePpu_available hp]
      exact .picture h h' hp
  · simp only [readByte, hc]
    exact .unimplemented h (by omega)
  · simp only [readByte, hc]
    exact .unimplemented (by omega) h'
  · cases hp : s.availMap
    · simp only [readByte, hc, resolveMapper_unavailable hp]
      exact .mapperGone h h' hp
    · simp only [readByte, hc, resolveMapper_available hp]
      exact .mapper h h' hp
  · simp only [readByte, hc]
    exact .invalid h

/-! ## One byte write -/

/-- Everything a byte write can do. -/
inductive ByteWrite (a : Addr) (v : Byte) (s : State) : Access Unit → Prop where
  | store : a.toNat ≤ 0x1FFF → ByteWrite a v s (.done () (s.setRam (s.ram.write (a.toNat % 0x800) v)))
  | picture : 0x2000 ≤ a.toNat → a.toNat ≤ 0x3FFF → s.availPpu = true →
      ByteWrite a v s (.done () (s.emit (.ppuWrite (ppuReg a) v)).passMoment)
  | pictureGone : 0x2000 ≤ a.toNat → a.toNat ≤ 0x3FFF → s.availPpu = false →
      ByteWrite a v s (.raised ⟨.unresolvedReference, a, .ppu⟩ s)
  | unimplemented : 0x4000 ≤ a.toNat → a.toNat ≤ 0x401F →
      ByteWrite a v s (.raised ⟨.unimplementedRegion, a, .none⟩ s)
  | mapper : 0x4020 ≤ a.toNat → a.toNat ≤ 0xFFFE → s.availMap = true →
      ByteWrite a v s (.done () (s.emit (.mapWrite a v)).passMoment)
  | mapperGone : 0x4020 ≤ a.toNat → a.toNat ≤ 0xFFFE → s.availMap = false →
      ByteWrite a v s (.raised ⟨.unresolvedReference, a, .mapper⟩ s)
  | invalid : a = 0xFFFF#16 → ByteWrite a v s (.raised ⟨.invalidAddress, a, .none⟩ s)

theorem writeByte_cases (a : Addr) (v : Byte) (s : State) : ByteWrite a v s (writeByte a v s) := by
  rcases classify_cases a with ⟨h, hc⟩ | ⟨h, h', hc⟩ | ⟨h, h', hc⟩ | ⟨h, h', hc⟩ | ⟨h, h', hc⟩ | ⟨h, hc⟩
  · simp only [writeByte, hc, storeWrite_inside (storeIndex_lt a)]
    exact .store h
  · cases hp : s.availPpu
    · simp only [writeByte, hc, resolvePpu_unavailable hp]
      exact .pictureGone h h' hp
    · simp only [writeByte, hc, resolvePpu_available hp]
      exact .picture h h' hp
  · simp only [writeByte, hc]
    exact .unimplemented h (by omega)
  · simp only [writeByte, hc]
    exact .unimplemented (by omega) h'
  · cases hp : s.availMap
    · simp only [writeByte, hc, resolveMapper_unavailable hp]
      exact .mapperGone h h' hp
    · simp only [writeByte, hc, resolveMapper_available hp]
      exact .mapper h h' hp
  · simp only [writeByte, hc]
    exact .invalid h

/-! ## The button check -/

theorem checkButton_legal {index : Nat} (h : index < 8) (s : State) : checkButton index s = .done () s := by
  simp [checkButton, Config.nButton, h]

theorem checkButton_illegal {index : Nat} (h : 8 ≤ index) (s : State) :
    checkButton index s = .raised ⟨.buttonIndex, BitVec.ofNat 16 index, .none⟩ s := by
  simp [checkButton, Config.nButton, show ¬ index < 8 by omega]

end Sys2Proof.Machine
end

