-- ==== Sys2Proof/Laws/Step.lean ====
section
/-! SUPPORT. What a step does with the next command word. -/

namespace Sys2Proof.Machine

theorem fetch_nil {s : State} (h : s.commands = []) : fetch s = none := by
  simp [fetch, h]

theorem fetch_cons {s : State} {w : CommandWord} {rest : List CommandWord} (h : s.commands = w :: rest) :
    fetch s = some (w, s.setCommands rest) := by
  simp [fetch, h]

/-- Everything a step that answers a next state can have done: refused a word that spells nothing, or
performed the operation the word spells. -/
theorem step_next_cases {s t : State} (h : step s = .next t) :
    (∃ w rest why, s.commands = w :: rest ∧ decode w = .invalid why ∧
      t = (s.setCommands rest).respond .refused) ∨
    (∃ w rest i, s.commands = w :: rest ∧ decode w = .spells i ∧
      perform (bodyOf i) (s.setCommands rest) = .next t) := by
  cases hc : s.commands with
  | nil => rw [step, fetch_nil hc] at h; cases h
  | cons w rest =>
    rw [step, fetch_cons hc] at h
    cases hd : decode w with
    | invalid why =>
      simp only [hd, rejectWord, Host.Outcome.next.injEq] at h
      exact .inl ⟨w, rest, why, rfl, hd, h.symm⟩
    | spells i =>
      simp only [hd, exec_eq_perform] at h
      exact .inr ⟨w, rest, i, rfl, hd, h⟩

/-- A run of one step more that answers a next state took a step first. -/
theorem run_of_succ {s t : State} {k : Nat} (h : Host.Core.run Sys2Proof.core (k + 1) s = .next t) :
    ∃ u, step s = .next u ∧ Host.Core.run Sys2Proof.core k u = .next t := by
  have h := (Host.Core.run.eq_2 Sys2Proof.core s k).symm.trans h
  cases hs : step s with
  | next u =>
    have hc : Sys2Proof.core.step s = .next u := hs
    rw [hc] at h
    exact ⟨u, rfl, h⟩
  | fault r =>
    have hc : Sys2Proof.core.step s = .fault r := hs
    rw [hc] at h
    cases h
  | refused r =>
    have hc : Sys2Proof.core.step s = .refused r := hs
    rw [hc] at h
    cases h

end Sys2Proof.Machine
end

