-- ==== Sys2Proof/Laws/Effects.lean ====
section
/-! SUPPORT. Everything the body of an operation can do to the state, once: the invariants, the frames and the
history statements are case splits over these. -/

namespace Sys2Proof.Machine

/-! ## The environment's view is not changed by the block's own updates -/

@[simp] theorem State.emit_availPpu (s : State) (e : Event) : (s.emit e).availPpu = s.availPpu := rfl

@[simp] theorem State.emit_availMap (s : State) (e : Event) : (s.emit e).availMap = s.availMap := rfl

@[simp] theorem State.emit_ppuAnswer (s : State) (e : Event) (reg : RegNum) :
    (s.emit e).ppuAnswer reg = s.ppuAnswer reg := rfl

@[simp] theorem State.emit_mapAnswer (s : State) (e : Event) (a : Addr) :
    (s.emit e).mapAnswer a = s.mapAnswer a := rfl

theorem State.emit_passMoment (s : State) (e : Event) : (s.emit e).passMoment = s.passMoment.emit e := rfl

/-! ## The byte reads and writes -/

/-- The state after one delegated access with its event. -/
def State.afterEvent (s : State) (e : Event) : State := (s.emit e).passMoment

/-- A byte read that ended with a value changed nothing, or made one delegated access. -/
theorem readByte_done {a : Addr} {s t : State} {v : Byte} (h : readByte a s = .done v t) :
    (t = s ∧ a.toNat ≤ 0x1FFF) ∨ ∃ e : Event, e.legal ∧ t = s.afterEvent e := by
  have hc := readByte_cases a s
  rw [h] at hc
  cases hc with
  | store ha => exact .inl ⟨rfl, ha⟩
  | picture => exact .inr ⟨.ppuRead (ppuReg a), trivial, rfl⟩
  | mapper lo hi => exact .inr ⟨.mapRead a, ⟨lo, hi⟩, rfl⟩

/-- A byte read that raised a fault changed nothing, and the fault is one R90 lists. -/
theorem readByte_raised {a : Addr} {s t : State} {f : FaultInfo} (h : readByte a s = .raised f t) :
    t = s ∧ f.record.legal ∧ f.cause ≠ .storeBounds := by
  have hc := readByte_cases a s
  rw [h] at hc
  cases hc with
  | pictureGone lo hi => exact ⟨rfl, .inr (.inr (.inl ⟨rfl, rfl, lo, hi⟩)), nofun⟩
  | unimplemented lo hi => exact ⟨rfl, .inl ⟨rfl, rfl, lo, hi⟩, nofun⟩
  | mapperGone lo hi => exact ⟨rfl, .inr (.inr (.inr (.inl ⟨rfl, rfl, lo, hi⟩))), nofun⟩
  | invalid ha => exact ⟨rfl, .inr (.inl ⟨rfl, rfl, ha⟩), nofun⟩

theorem writeByte_done {a : Addr} {v : Byte} {s t : State} {u : Unit} (h : writeByte a v s = .done u t) :
    (t = s.setRam (s.ram.write (a.toNat % 0x800) v)) ∨ ∃ e : Event, e.legal ∧ t = s.afterEvent e := by
  have hc := writeByte_cases a v s
  rw [h] at hc
  cases hc with
  | store => exact .inl rfl
  | picture => exact .inr ⟨.ppuWrite (ppuReg a) v, trivial, rfl⟩
  | mapper lo hi => exact .inr ⟨.mapWrite a v, ⟨lo, hi⟩, rfl⟩

theorem writeByte_raised {a : Addr} {v : Byte} {s t : State} {f : FaultInfo} (h : writeByte a v s = .raised f t) :
    t = s ∧ f.record.legal ∧ f.cause ≠ .storeBounds := by
  have hc := writeByte_cases a v s
  rw [h] at hc
  cases hc with
  | pictureGone lo hi => exact ⟨rfl, .inr (.inr (.inl ⟨rfl, rfl, lo, hi⟩)), nofun⟩
  | unimplemented lo hi => exact ⟨rfl, .inl ⟨rfl, rfl, lo, hi⟩, nofun⟩
  | mapperGone lo hi => exact ⟨rfl, .inr (.inr (.inr (.inl ⟨rfl, rfl, lo, hi⟩))), nofun⟩
  | invalid ha => exact ⟨rfl, .inr (.inl ⟨rfl, rfl, ha⟩), nofun⟩

/-! ## Whole bodies -/

/-- The state a body that ended with a value leaves, by operation. -/
inductive Effect (s : State) : Instr → State → Prop where
  | read (a : Addr) : Effect s (.rdb a) s
  | readEvent (a : Addr) (e : Event) : e.legal → Effect s (.rdb a) (s.afterEvent e)
  | store (a : Addr) (v : Byte) : Effect s (.wrb a v) (s.setRam (s.ram.write (a.toNat % 0x800) v))
  | writeEvent (a : Addr) (v : Byte) (e : Event) : e.legal → Effect s (.wrb a v) (s.afterEvent e)
  | word (a : Addr) : Effect s (.rdw a) s
  | wordEvent (a : Addr) (e : Event) : e.legal → Effect s (.rdw a) (s.afterEvent e)
  | wordEvents (a : Addr) (e e' : Event) : e.legal → e'.legal →
      Effect s (.rdw a) ((s.afterEvent e).afterEvent e')
  | strobe (on : Bool) : Effect s (.stb on) ((s.setStrobe on).setCursor (cursorAfterStrobe on s.cursor))
  | bit : Effect s .rds (s.setCursor (cursorAfterRead s.strobe s.cursor))
  | press (index : Nat) : index < 8 → Effect s (.prs index) (s.setSnapshot (snapshotPressed s.snapshot index))
  | release (index : Nat) : index < 8 →
      Effect s (.rls index) (s.setSnapshot (snapshotReleased s.snapshot index))

theorem Access.as_eq_done {α : Type} {x : Access α} {form : α → Value} {v : Value} {t : State}
    (h : x.as form = .done v t) : ∃ u, x = .done u t ∧ v = form u := by
  cases x with
  | done u t' => cases h; exact ⟨u, rfl, rfl⟩
  | raised f t' => cases h

theorem Access.as_eq_raised {α : Type} {x : Access α} {form : α → Value} {f : FaultInfo} {t : State}
    (h : x.as form = .raised f t) : x = .raised f t := by
  cases x with
  | done u t' => cases h
  | raised f' t' => cases h; rfl

/-- What a body that ended with a value did. -/
theorem bodyOf_done {i : Instr} {s t : State} {v : Value} (h : bodyOf i s = .done v t) : Effect s i t := by
  cases i with
  | rdb a =>
    obtain ⟨u, h, -⟩ := Access.as_eq_done h
    obtain ⟨rfl, -⟩ | ⟨e, he, rfl⟩ := readByte_done h
    · exact .read a
    · exact .readEvent a e he
  | wrb a b =>
    obtain ⟨u, h, -⟩ := Access.as_eq_done h
    obtain rfl | ⟨e, he, rfl⟩ := writeByte_done h
    · exact .store a b
    · exact .writeEvent a b e he
  | rdw a =>
    obtain ⟨u, h, -⟩ := Access.as_eq_done h
    rw [readWord] at h
    cases hl : readByte a s with
    | raised f s1 => rw [hl] at h; cases h
    | done low s1 =>
      rw [hl, Access.andThen_done] at h
      cases hh : readByte (nextAddr a) s1 with
      | raised f s2 => rw [hh] at h; cases h
      | done high s2 =>
        rw [hh] at h
        cases h
        obtain ⟨rfl, -⟩ | ⟨e, he, rfl⟩ := readByte_done hl
        · obtain ⟨rfl, -⟩ | ⟨e', he', rfl⟩ := readByte_done hh
          · exact .word a
          · exact .wordEvent a e' he'
        · obtain ⟨rfl, -⟩ | ⟨e', he', rfl⟩ := readByte_done hh
          · exact .wordEvent a e he
          · exact .wordEvents a e e' he he'
  | stb on => cases h; exact .strobe on
  | rds => cases h; exact .bit
  | prs index =>
    rcases Nat.lt_or_ge index 8 with hi | hi
    · rw [bodyOf, Machine.press, checkButton_legal hi] at h; cases h; exact .press index hi
    · rw [bodyOf, Machine.press, checkButton_illegal hi] at h; cases h
  | rls index =>
    rcases Nat.lt_or_ge index 8 with hi | hi
    · rw [bodyOf, Machine.release, checkButton_legal hi] at h; cases h; exact .release index hi
    · rw [bodyOf, Machine.release, checkButton_illegal hi] at h; cases h

/-- The fault of a button index is a row of R90 where the index is one a command word carries. -/
theorem buttonFault_legal {index : Nat} (lo : 8 ≤ index) (hi : index < 256) :
    (FaultInfo.mk .buttonIndex (BitVec.ofNat 16 index) .none).record.legal := by
  have hm : (BitVec.ofNat 16 index).toNat = index := by rw [BitVec.toNat_ofNat]; omega
  exact .inr (.inr (.inr (.inr ⟨rfl, rfl, by simp only [FaultInfo.record, hm]; omega,
    by simp only [FaultInfo.record, hm]; omega⟩)))

/-- What a body that raised a fault did: nothing, or (a word read) the low byte's delegated access. -/
theorem bodyOf_raised {i : Instr} {s t : State} {f : FaultInfo} (h : bodyOf i s = .raised f t) :
    (t = s ∨ ∃ a e, i = .rdw a ∧ e.legal ∧ t = s.afterEvent e) ∧ (i.wellFormed = true → f.record.legal) ∧
      f.cause ≠ .storeBounds := by
  cases i with
  | rdb a =>
    obtain ⟨rfl, hl, hn⟩ := readByte_raised (Access.as_eq_raised h)
    exact ⟨.inl rfl, fun _ => hl, hn⟩
  | wrb a b =>
    obtain ⟨rfl, hl, hn⟩ := writeByte_raised (Access.as_eq_raised h)
    exact ⟨.inl rfl, fun _ => hl, hn⟩
  | rdw a =>
    have h := Access.as_eq_raised h
    rw [readWord] at h
    cases hl : readByte a s with
    | raised f' s1 =>
      rw [hl] at h
      cases h
      obtain ⟨rfl, hl, hn⟩ := readByte_raised hl
      exact ⟨.inl rfl, fun _ => hl, hn⟩
    | done low s1 =>
      rw [hl, Access.andThen_done] at h
      cases hh : readByte (nextAddr a) s1 with
      | done high s2 => rw [hh] at h; cases h
      | raised f' s2 =>
        rw [hh] at h
        cases h
        obtain ⟨rfl, hg, hn⟩ := readByte_raised hh
        obtain ⟨rfl, -⟩ | ⟨e, he, rfl⟩ := readByte_done hl
        · exact ⟨.inl rfl, fun _ => hg, hn⟩
        · exact ⟨.inr ⟨a, e, rfl, he, rfl⟩, fun _ => hg, hn⟩
  | stb on => cases h
  | rds => cases h
  | prs index =>
    rcases Nat.lt_or_ge index 8 with hi | hi
    · rw [bodyOf, Machine.press, checkButton_legal hi] at h; cases h
    · rw [bodyOf, Machine.press, checkButton_illegal hi] at h
      cases h
      refine ⟨.inl rfl, fun hw => buttonFault_legal hi ?_, nofun⟩
      simpa [Instr.wellFormed, indexFits] using hw
  | rls index =>
    rcases Nat.lt_or_ge index 8 with hi | hi
    · rw [bodyOf, Machine.release, checkButton_legal hi] at h; cases h
    · rw [bodyOf, Machine.release, checkButton_illegal hi] at h
      cases h
      refine ⟨.inl rfl, fun hw => buttonFault_legal hi ?_, nofun⟩
      simpa [Instr.wellFormed, indexFits] using hw

/-- Everything `exec` can answer: never a fault or a refusal of the host's; `REFUSED` on a halted block; else
the body's end. -/
theorem exec_cases (i : Instr) (s : State) :
    (s.fault.valid = true ∧ exec i s = .next (s.respond .refused)) ∨
    (s.fault.valid = false ∧ ∃ v t, bodyOf i s = .done v t ∧ exec i s = .next (t.respond (.ok v))) ∨
    (s.fault.valid = false ∧ ∃ f t, bodyOf i s = .raised f t ∧ exec i s = .next (t.takeFault f)) := by
  rw [exec_eq_perform]
  cases hv : s.fault.valid with
  | true => exact .inl ⟨rfl, perform_halted hv _⟩
  | false =>
    rw [perform_running hv]
    cases hb : bodyOf i s with
    | done v t => exact .inr (.inl ⟨rfl, v, t, rfl, rfl⟩)
    | raised f t => exact .inr (.inr ⟨rfl, f, t, rfl, rfl⟩)

end Sys2Proof.Machine
end

