-- ==== Sys2Proof/Laws/PerInstr.lean ====
section
/-! SUPPORT. Per operation: the fields of its command word (30_encoding.md R59, R60). -/

namespace Sys2Proof

/-! ## The fields of a word laid out by R59 -/

@[simp] theorem opField_commandOf (op : BitVec 4) (addr : Addr) (data : Byte) :
    opField (commandOf op addr data) = op := by
  apply BitVec.eq_of_getLsbD_eq
  intro i hi
  simp only [opField, commandOf, BitVec.getLsbD_extractLsb', BitVec.getLsbD_append]
  simp [hi, show ¬ 28 + i < 8 by omega, show ¬ 28 + i - 8 < 16 by omega, show ¬ 28 + i - 8 - 16 < 4 by omega,
    show 28 + i - 8 - 16 - 4 = i by omega]

@[simp] theorem zeroField_commandOf (op : BitVec 4) (addr : Addr) (data : Byte) :
    zeroField (commandOf op addr data) = 0b0000#4 := by
  apply BitVec.eq_of_getLsbD_eq
  intro i hi
  simp only [zeroField, commandOf, BitVec.getLsbD_extractLsb', BitVec.getLsbD_append]
  simp [show ¬ 24 + i < 8 by omega, show ¬ 24 + i - 8 < 16 by omega, show 24 + i - 8 - 16 < 4 by omega]

@[simp] theorem addrField_commandOf (op : BitVec 4) (addr : Addr) (data : Byte) :
    addrField (commandOf op addr data) = addr := by
  apply BitVec.eq_of_getLsbD_eq
  intro i hi
  simp only [addrField, commandOf, BitVec.getLsbD_extractLsb', BitVec.getLsbD_append]
  simp [hi, show ¬ 8 + i < 8 by omega]

@[simp] theorem dataField_commandOf (op : BitVec 4) (addr : Addr) (data : Byte) :
    dataField (commandOf op addr data) = data := by
  apply BitVec.eq_of_getLsbD_eq
  intro i hi
  simp only [dataField, commandOf, BitVec.getLsbD_extractLsb', BitVec.getLsbD_append]
  simp [hi]

end Sys2Proof

namespace Sys2Proof.Laws.EncodedFields

/-- The word of an operation carries its operation code, a zero `zero` field, and a zero `addr` field in
format `P`. -/
def Statement (i : Instr) : Prop :=
  zeroField (encode i) = 0b0000#4 ∧
  ((opField (encode i)).getLsbD 3 = true ↔ i.subBlock = .peripheral) ∧
  (i.subBlock = .peripheral → addrField (encode i) = 0x0000#16)

theorem rdb (a : Addr) : Statement (.rdb a) := by simp [Statement, encode, Instr.subBlock]

theorem wrb (a : Addr) (v : Byte) : Statement (.wrb a v) := by simp [Statement, encode, Instr.subBlock]

theorem rdw (a : Addr) : Statement (.rdw a) := by simp [Statement, encode, Instr.subBlock, opRdw]

theorem stb (on : Bool) : Statement (.stb on) := by simp [Statement, encode, Instr.subBlock, opStb]

theorem rds : Statement .rds := by simp [Statement, encode, Instr.subBlock, opRds]

theorem prs (index : Nat) : Statement (.prs index) := by simp [Statement, encode, Instr.subBlock, opPrs]

theorem rls (index : Nat) : Statement (.rls index) := by simp [Statement, encode, Instr.subBlock, opRls]

end Sys2Proof.Laws.EncodedFields
end

