-- ==== Sys2Proof/Machine/Assembly.lean ====
section
/-! DEFINITION. The textual syntax of operations (30_encoding.md R65): the canonical call, the call under the
source's second name where it has one, and the mnemonic form. Digits: log entry 20. -/

namespace Sys2Proof.Machine

/-- The low four bits of a number as a hexadecimal digit, capitals. -/
def hexDigit (n : Nat) : Char :=
  let d := n % 16
  if d < 10 then Char.ofNat (48 + d) else Char.ofNat (55 + d)

/-- The low `4 * k` bits of a number as `k` hexadecimal digits. -/
def hexDigits : Nat → Nat → List Char
  | 0, _ => []
  | k + 1, n => hexDigit (n / 16 ^ k) :: hexDigits k n

/-- A number of `k` hexadecimal digits with `0x` (R65). -/
def hexText (k n : Nat) : String := "0x" ++ String.ofList (hexDigits k n)

/-- An address. -/
def addrText (a : Addr) : String := hexText 4 a.toNat

/-- A byte. -/
def byteText (v : Byte) : String := hexText 2 v.toNat

/-- "`index` in decimal". -/
def indexText (index : Nat) : String := toString index

/-- The operands as the canonical call lists them (R65). -/
def operandsText : Instr → String
  | .rdb a => addrText a
  | .wrb a v => addrText a ++ ", " ++ byteText v
  | .rdw a => addrText a
  | .stb on => if on then "true" else "false"
  | .rds => ""
  | .prs index => indexText index
  | .rls index => indexText index

/-- The source's name of an operation (R60, R65). -/
def sourceName : Instr → String
  | .rdb _ => "read_byte"
  | .wrb _ _ => "write_byte"
  | .rdw _ => "read_word"
  | .stb _ => "write_strobe"
  | .rds => "read"
  | .prs _ => "press"
  | .rls _ => "release"

/-- The source's second name, where it has one (R65, 90_conflicts.md C5). -/
def secondName : Instr → Option String
  | .rdb _ => none
  | .wrb _ _ => none
  | .rdw _ => none
  | .stb _ => none
  | .rds => some "read_value"
  | .prs _ => some "press_button"
  | .rls _ => some "release_button"

/-- The canonical call, for example `write_byte(0x0005, 0xAB)`. -/
def callText (i : Instr) : String := sourceName i ++ "(" ++ operandsText i ++ ")"

/-- The call under the second name. -/
def secondCallText (i : Instr) : Option String :=
  (secondName i).map fun name => name ++ "(" ++ operandsText i ++ ")"

/-- The mnemonic form, for example `WRB 0x0005, 0xAB` or `STB 1`. -/
def mnemonicText (i : Instr) : String :=
  match i with
  | .stb on => if on then "STB 1" else "STB 0"
  | .rds => "RDS"
  | .rdb _ => i.mnemonic ++ " " ++ operandsText i
  | .wrb _ _ => i.mnemonic ++ " " ++ operandsText i
  | .rdw _ => i.mnemonic ++ " " ++ operandsText i
  | .prs _ => i.mnemonic ++ " " ++ operandsText i
  | .rls _ => i.mnemonic ++ " " ++ operandsText i

end Sys2Proof.Machine
end

