-- ==== Sys2Proof/Tests/Slice0.lean ====
section
/-! SUPPORT. Tests. Expected values come from spec/95_test_vectors.md (the vector's number stands in the
comment) or from the encoding tables of spec/30_encoding.md by hand, never from the model. The second half holds
one witness per statement that has hypotheses. -/

namespace Sys2Proof.Tests

open Sys2Proof.Machine

/-! ## Helpers -/

/-- The state an operation leaves. -/
def after (i : Instr) (s : State) : State :=
  match exec i s with
  | .next t => t
  | .fault _ => s
  | .refused _ => s

/-- The state a step leaves. -/
def afterStep (s : State) : State :=
  match step s with
  | .next t => t
  | .fault _ => s
  | .refused _ => s

/-- Reset, with an environment whose next accesses meet both components, answering as the stubs of
43_component_ports.md would. -/
def stubbed (ppu1 map1 ppu2 map2 : Byte) : State :=
  { State.reset with env := [⟨true, true, ppu1, map1⟩, ⟨true, true, ppu2, map2⟩] }

/-- Reset, with the given peripheral registers. -/
def peripheral (snapshot : Byte) (cursor : BitVec 4) (strobe : Bool) : State :=
  { State.reset with snapshot := snapshot, cursor := cursor, strobe := strobe }

/-- Reset, with the lines of the next access low. -/
def gone : State := { State.reset with env := [⟨false, false, 0, 0⟩] }

/-- Reset, available at the next access and gone at the one after. -/
def goneSecond : State := { State.reset with env := [⟨true, true, 0, 0⟩, ⟨false, false, 0, 0⟩] }

/-- A halted block, after `RDB 0x4016` (95_test_vectors.md 2.7). -/
def halted : State := after (.rdb 0x4016#16) State.reset

/-! ## WellFormed refuses an index that does not fit eight bits (R61) -/

theorem test_illformed_prs : Instr.wellFormed (.prs 256) = false := by decide

theorem test_illformed_rls : Instr.wellFormed (.rls 256) = false := by decide

theorem test_wellformed_255 : Instr.wellFormed (.prs 255) = true ∧ Instr.wellFormed (.rls 255) = true := by decide

/-! ## Decoding, words written out from R59, R60 -/

/-- op 0000, zero 0000, addr 0001 0010 0011 0100, data 00000000. -/
theorem test_decode_rdb : decode 0b00000000000100100011010000000000#32 = .spells (.rdb 0x1234#16) := by decide

/-- op 0001, zero 0000, addr 0000 0000 0000 0101, data 10101011 (B3). -/
theorem test_decode_wrb : decode 0b00010000000000000000010110101011#32 = .spells (.wrb 0x0005#16 0xAB#8) := by decide

/-- op 0010, zero 0000, addr 0001 1111 1111 1111, data 00000000 (W5). -/
theorem test_decode_rdw : decode 0b00100000000111111111111100000000#32 = .spells (.rdw 0x1FFF#16) := by decide

/-- op 1000, the level in bit 0 (S7, S8). -/
theorem test_decode_stb :
    decode 0b10000000000000000000000000000001#32 = .spells (.stb true) ∧
    decode 0b10000000000000000000000000000000#32 = .spells (.stb false) := by decide

/-- op 1001, all else zero (S1). -/
theorem test_decode_rds : decode 0b10010000000000000000000000000000#32 = .spells .rds := by decide

/-- op 1010, index in the data field (S15). -/
theorem test_decode_prs : decode 0b10100000000000000000000011111111#32 = .spells (.prs 255) := by decide

/-- op 1011, index in the data field (S19). -/
theorem test_decode_rls : decode 0b10110000000000000000000000000111#32 = .spells (.rls 7) := by decide

/-- The invalid words of 95_test_vectors.md 2.6, each with the field it names. -/
theorem test_decode_invalid :
    decode 0x00123401#32 = .invalid .dataNotZero ∧ decode 0x11000000#32 = .invalid .zeroNotZero ∧
    decode 0x200001FF#32 = .invalid .dataNotZero ∧ decode 0x30000000#32 = .invalid .reservedOp ∧
    decode 0x70000000#32 = .invalid .reservedOp ∧ decode 0x08000000#32 = .invalid .zeroNotZero ∧
    decode 0x80000002#32 = .invalid .dataNotZero ∧ decode 0x80000100#32 = .invalid .addrNotZero ∧
    decode 0x90000001#32 = .invalid .dataNotZero ∧ decode 0xA0000107#32 = .invalid .addrNotZero ∧
    decode 0xC0000000#32 = .invalid .reservedOp ∧ (decode 0xFFFFFFFF#32).instr? = none := by decide

/-- The words of the vectors B3, W5, S7, S15, S19, from the operation's side. -/
theorem test_encode :
    encode (.wrb 0x0005#16 0xAB#8) = 0x100005AB#32 ∧ encode (.rdw 0x1FFF#16) = 0x201FFF00#32 ∧
    encode (.stb true) = 0x80000001#32 ∧ encode (.prs 255) = 0xA00000FF#32 ∧
    encode (.rls 7) = 0xB0000007#32 ∧ encode .rds = 0x90000000#32 ∧ encode (.rdb 0x2ABC#16) = 0x002ABC00#32 := by
  decide

theorem test_decodeTableWord : decodeTableWord 32 0x100005AB = some (.wrb 0x0005#16 0xAB#8) := by decide

/-! ## Classes, codes and transforms (95_test_vectors.md 2.1) -/

theorem test_classify :
    classify 0x1FFF#16 = .ram ∧ classify 0x2000#16 = .ppu ∧ classify 0x4014#16 = .apuio ∧
    classify 0x4018#16 = .test ∧ classify 0x4020#16 = .mapper ∧ classify 0xFFFE#16 = .mapper ∧
    classify 0xFFFF#16 = .invalid := by decide

theorem test_transform :
    storeIndex 0x17FF#16 = 0x7FF ∧ storeIndex 0x1800#16 = 0 ∧ ppuReg 0x2ABC#16 = 4 ∧ ppuReg 0x3FF8#16 = 0 := by
  decide

/-- The class codes of R58. -/
theorem test_class_codes :
    [Region.ram, .ppu, .apuio, .test, .mapper, .invalid].map Region.code = [0, 1, 2, 3, 4, 5] := by decide

/-- The format a class's addresses have, and its image field, of R54 to R57. -/
theorem test_formats :
    [Region.ram, .ppu, .apuio, .test, .mapper, .invalid].map Region.format =
      [.aRam, .aPpu, .aIo, .aIo, .aMap, .aMap] ∧
    ramImageField 0x1805#16 = 3 ∧ ppuImageField 0x2008#16 = 1 := by decide

/-! ## One step each -/

/-- B2: `RDB 0x1FFF` at reset is `OK(0x00)`. -/
theorem test_rdb_ram : (after (.rdb 0x1FFF#16) State.reset).outcomes = [.ok (.byte 0x00#8)] := by decide

/-- B10: register 7, whatever image; the Picture Unit's byte is returned. -/
theorem test_rdb_ppu :
    (after (.rdb 0x2007#16) (stubbed 0x56 0 0 0)).outcomes = [.ok (.byte 0x56#8)] ∧
    (after (.rdb 0x2007#16) (stubbed 0x56 0 0 0)).events = [.ppuRead 7] := by decide

/-- P1 step 7: `WRB 0x0800, 0x34` writes cell 0. -/
theorem test_wrb_ram : (after (.wrb 0x0800#16 0x34#8) State.reset).ram = [(0, 0x34#8)] := by decide

/-- B12: `WRB 0x4020, 0xEE` emits `MapWrite(0x4020, 0xEE)`. -/
theorem test_wrb_mapper : (after (.wrb 0x4020#16 0xEE#8) State.reset).events = [.mapWrite 0x4020#16 0xEE#8] := by
  decide

/-- W1: `RAM[0x7FF]` = 0x12, `RAM[0x000]` = 0x34, `RDW 0x07FF` is 0x3412. -/
theorem test_rdw_ram :
    (after (.rdw 0x07FF#16) { State.reset with ram := [(0, 0x34#8), (0x7FF, 0x12#8)] }).outcomes =
      [.ok (.word 0x3412#16)] := by decide

/-- W7: `RDW 0x3FFF` faults at 0x4000 after `PpuRead(7)`. -/
theorem test_rdw_split :
    (after (.rdw 0x3FFF#16) (stubbed 0x5A 0 0 0)).fault = ⟨true, 1, 0, 0x4000#16⟩ ∧
    (after (.rdw 0x3FFF#16) (stubbed 0x5A 0 0 0)).events = [.ppuRead 7] := by decide

/-- S7 and S8: from cursor 5. -/
theorem test_stb :
    (after (.stb true) (peripheral 0x09 5 false)).cursor = 0 ∧
    (after (.stb true) (peripheral 0x09 5 false)).strobe = true ∧
    (after (.stb false) (peripheral 0x09 5 false)).cursor = 5 := by decide

/-- S2: bit 3 of 0x09, the cursor to 4. -/
theorem test_rds_bit :
    (after .rds (peripheral 0x09 3 false)).outcomes = [.ok (.bit 1)] ∧
    (after .rds (peripheral 0x09 3 false)).cursor = 4 := by decide

/-- S4: past the eighth bit of 0xFF, 0; a shift count taken modulo 8 would give 1. -/
theorem test_rds_saturated :
    (after .rds (peripheral 0xFF 8 false)).outcomes = [.ok (.bit 0)] ∧
    (after .rds (peripheral 0xFF 8 false)).cursor = 8 := by decide

/-- S11: `PRS 3` of 0x01. -/
theorem test_prs : (after (.prs 3) (peripheral 0x01 4 false)).snapshot = 0x09#8 := by decide

/-- S14: `PRS 8` faults. -/
theorem test_prs_fault : (after (.prs 8) (peripheral 0x80 0 false)).fault = ⟨true, 4, 0, 0x0008#16⟩ := by decide

/-- S17: `RLS 0` of 0x09. -/
theorem test_rls : (after (.rls 0) (peripheral 0x09 6 false)).snapshot = 0x08#8 := by decide

/-- S20: `RLS 9` faults and changes nothing else. -/
theorem test_rls_fault :
    (after (.rls 9) (peripheral 0xFF 0 false)).fault = ⟨true, 4, 0, 0x0009#16⟩ ∧
    (after (.rls 9) (peripheral 0xFF 0 false)).snapshot = 0xFF#8 := by decide

/-- B22: the Picture Unit gone. -/
theorem test_unresolved : (after (.rdb 0x2002#16) gone).fault = ⟨true, 3, 1, 0x2002#16⟩ := by decide

/-- 2.7: a halted block refuses, and keeps its fault. -/
theorem test_halted :
    (after (.rdb 0xFFFF#16) halted).fault = ⟨true, 1, 0, 0x4016#16⟩ ∧
    (after (.prs 0) halted).snapshot = 0x00#8 ∧
    (after (.prs 0) halted).outcomes = [.fault ⟨.unimplementedRegion, 0x4016#16, .none⟩, .refused] := by decide

/-- A step performs the issued word (B3) and takes it. -/
theorem test_step_issued :
    (afterStep (State.reset.withFetchWord 32 0x100005AB)).ram = [(5, 0xAB#8)] ∧
    (afterStep (State.reset.withFetchWord 32 0x100005AB)).commands = [] := by decide

/-- A step on a word that spells nothing: `REFUSED` (2.6). -/
theorem test_step_reserved : (afterStep (State.reset.withFetchWord 32 0x30000000)).outcomes = [.refused] := by decide

/-! ## Response words, by hand from R62 -/

theorem test_response :
    (Result.ok (.word 0x3412#16)).response = 0x00003412#32 ∧ (Result.ok (.bit 1)).response = 0x00000001#32 ∧
    (Result.fault ⟨.unimplementedRegion, 0x4016#16, .none⟩).response = 0x40204016#32 ∧
    (Result.fault ⟨.unresolvedReference, 0x8000#16, .mapper⟩).response = 0x40628000#32 ∧
    Result.refused.response = 0x80000000#32 := by decide

/-! ## Text, from R65 -/

theorem test_text :
    callText (.wrb 0x0005#16 0xAB#8) = "write_byte(0x0005, 0xAB)" ∧ callText (.stb true) = "write_strobe(true)" ∧
    secondCallText (.prs 3) = some "press_button(3)" ∧ secondCallText .rds = some "read_value()" ∧
    mnemonicText (.rdb 0x1FFF#16) = "RDB 0x1FFF" ∧ mnemonicText (.stb true) = "STB 1" := by decide

/-! ## Witnesses: states and operands that meet each statement's hypotheses -/

theorem witness_ResetLeavesSpecifiedValues : (0x7FF : Nat) < 0x800 := by decide

theorem witness_StepRunsDecodedOperation :
    (State.reset.withFetchWord 32 0x90000000).commands = 0x90000000#32 :: [] ∧
    decode 0x90000000#32 = .spells .rds := by decide

theorem witness_StepWithNothingIssuedStops : State.reset.commands = [] := rfl

theorem witness_IssuedWordRunsNext : decodeTableWord 32 0xA0000007 = some (.prs 7) := by decide

theorem witness_ReservedWordIsRefused :
    (State.reset.withFetchWord 32 0x30000000).commands = 0x30000000#32 :: [] ∧
    CommandWord.reserved 0x30000000#32 ∧ CommandWord.reserved 0x01000000#32 ∧
    CommandWord.reserved 0x00000001#32 ∧ CommandWord.reserved 0x80000100#32 ∧
    CommandWord.reserved 0x80000002#32 := by
  refine ⟨by decide, ?_⟩
  simp [CommandWord.reserved]

theorem witness_DecodeAfterEncodeIsIdentity : Instr.wellFormed (.rls 255) = true := by decide

theorem witness_EncodeAfterDecodeIsIdentity : decode 0xB00000FF#32 = .spells (.rls 255) := by decide

theorem witness_WordSpellsByMatchAndMask :
    (⟨"RDB", 0x00000000#32, 0xFF0000FF#32⟩ : CommandRow) ∈ commandRows ∧
    (⟨"RDB", 0x00000000#32, 0xFF0000FF#32⟩ : CommandRow).matches 0x00FFFF00#32 = true ∧
    decode 0x00FFFF00#32 = .spells (.rdb 0xFFFF#16) := by decide

theorem witness_MirrorFieldsAreRemainders :
    classify 0x0005#16 = .ram ∧ classify 0x1805#16 = .ram ∧
    (0x0005#16).extractLsb' 0 11 = (0x1805#16).extractLsb' 0 11 ∧
    classify 0x2007#16 = .ppu ∧ classify 0x3FFF#16 = .ppu ∧
    (0x2007#16).extractLsb' 0 3 = (0x3FFF#16).extractLsb' 0 3 := by decide

theorem witness_RouterArithmeticIsExact :
    0x2000 ≤ (0x2000#16).toNat ∧ (0x2000#16).toNat ≤ 0x3FFF ∧ (0x3FFF#16).toNat ≤ 0x3FFF := by decide

theorem witness_StorePrimitivesRespectBound :
    (0x7FF : Nat) < 0x800 ∧ (0x800 : Nat) ≤ 0x800 ∧ State.reset.ram.wf = true := by decide

theorem witness_StoreBoundNeverFires :
    State.reset.fault.valid = false ∧ exec (.rdb 0x4016#16) State.reset = .next halted ∧
    halted.fault.valid = true ∧
    halted.outcomes = State.reset.outcomes ++ [.fault ⟨.unimplementedRegion, 0x4016#16, .none⟩] :=
  ⟨rfl, rfl, rfl, rfl⟩

theorem witness_CanonicalStoresReadingAlikeAreEqual :
    Memory.wf [(5, 0xAB#8)] = true ∧ Memory.wf (Memory.write [] 5 0xAB#8) = true ∧
    ∀ index, Memory.read [(5, 0xAB#8)] index = Memory.read (Memory.write [] 5 0xAB#8) index :=
  ⟨by decide, by decide, fun _ => rfl⟩

/-- The clauses of `ReadByteAnswersByClass` and `WriteByteStoresByClass`, each at a boundary address. -/
theorem witness_ReadByteAnswersByClass :
    State.reset.fault.valid = false ∧ gone.fault.valid = false ∧ State.reset.ram.wf = true ∧
    (0x1FFF#16).toNat ≤ 0x1FFF ∧
    (0x2000 ≤ (0x2000#16).toNat ∧ (0x3FFF#16).toNat ≤ 0x3FFF ∧ State.reset.availPpu = true ∧ gone.availPpu = false) ∧
    (0x4000 ≤ (0x4000#16).toNat ∧ (0x401F#16).toNat ≤ 0x401F) ∧
    (0x4020 ≤ (0x4020#16).toNat ∧ (0xFFFE#16).toNat ≤ 0xFFFE ∧ State.reset.availMap = true ∧
      gone.availMap = false) := by decide

theorem witness_WriteByteStoresByClass :
    State.reset.fault.valid = false ∧ State.reset.ram.wf = true ∧ (0x1FFF#16).toNat ≤ 0x1FFF ∧
    gone.availPpu = false ∧ gone.availMap = false := by decide

/-- Low byte `OK` and high byte `OK`; low byte `OK` and high byte faulting; low byte faulting. -/
theorem witness_ReadWordIsTwoByteReads :
    State.reset.fault.valid = false ∧
    exec (.rdb 0x0000#16) State.reset = .next (after (.rdb 0x0000#16) State.reset) ∧
    (after (.rdb 0x0000#16) State.reset).outcomes = State.reset.outcomes ++ [.ok (.byte 0x00#8)] ∧
    exec (.rdb 0x0001#16) { after (.rdb 0x0000#16) State.reset with outcomes := State.reset.outcomes } =
      .next (after (.rdb 0x0001#16) State.reset) ∧
    (after (.rdb 0x0001#16) State.reset).outcomes = State.reset.outcomes ++ [.ok (.byte 0x00#8)] ∧
    (after (.rdb 0x4000#16) { after (.rdb 0x3FFF#16) (stubbed 0x5A 0 0 0) with outcomes := [] }).fault.valid = true ∧
    (after (.rdb 0x401F#16) State.reset).fault.valid = true :=
  ⟨rfl, rfl, rfl, rfl, rfl, by decide, by decide⟩

theorem witness_ReadWordBoundaryCases :
    State.reset.fault.valid = false ∧ (stubbed 1 2 3 4).fault.valid = false ∧
    (0x1FFE#16).toNat < 0x1FFF ∧
    (0x2000 ≤ (0x2000#16).toNat ∧ (0x3FFE#16).toNat < 0x3FFF ∧ (stubbed 1 2 3 4).availPpu = true ∧
      (stubbed 1 2 3 4).passMoment.availPpu = true) ∧
    (0x4000 ≤ (0x4000#16).toNat ∧ (0x401F#16).toNat ≤ 0x401F) ∧
    (0x4020 ≤ (0x4020#16).toNat ∧ (0xFFFD#16).toNat ≤ 0xFFFD ∧ (stubbed 1 2 3 4).availMap = true ∧
      (stubbed 1 2 3 4).passMoment.availMap = true) := by decide

theorem witness_UnresolvedReferenceHalts :
    gone.fault.valid = false ∧ goneSecond.fault.valid = false ∧
    (0x2000 ≤ (0x3FFF#16).toNat ∧ (0x3FFF#16).toNat ≤ 0x3FFF ∧ gone.availPpu = false) ∧
    (0x4020 ≤ (0xFFFE#16).toNat ∧ (0xFFFE#16).toNat ≤ 0xFFFE ∧ gone.availMap = false) ∧
    (0x2000 ≤ (0x3FFE#16).toNat ∧ (0x3FFE#16).toNat < 0x3FFF ∧ goneSecond.availPpu = true ∧
      goneSecond.passMoment.availPpu = false) ∧
    (0x4020 ≤ (0xFFFD#16).toNat ∧ (0xFFFD#16).toNat < 0xFFFE ∧ goneSecond.availMap = true ∧
      goneSecond.passMoment.availMap = false) ∧
    (exec (.rdb 0x1FFF#16) gone = .next (after (.rdb 0x1FFF#16) gone)) ∧ Addr.fatal 0xFFFF#16 :=
  ⟨rfl, rfl, by decide, by decide, by decide, by decide, rfl, .inr rfl⟩

theorem witness_MirroredStoreReadAfterWrite :
    State.reset.fault.valid = false ∧ State.reset.ram.wf = true ∧ (0x0005#16).toNat ≤ 0x1FFF ∧
    (0x1FFF#16).toNat ≤ 0x1FFF := by decide

theorem witness_RegisterWindowMirroring :
    State.reset.fault.valid = false ∧ State.reset.availPpu = true ∧ 0x2000 ≤ (0x2000#16).toNat ∧
    (0x2000#16).toNat ≤ 0x3FFF ∧ 0x2000 ≤ (0x3FFF#16).toNat ∧ (0x3FFF#16).toNat ≤ 0x3FFF := by decide

theorem witness_WordReadIsLittleEndian :
    State.reset.fault.valid = false ∧ State.reset.ram.wf = true ∧ (0x1FFE#16).toNat < 0x1FFF := by decide

/-- For `StrobeWriteSetsLatch` and `ReadReturnsBitAndAdvances`, whose one hypothesis is a running block. -/
theorem witness_StrobeWriteSetsLatch_ReadReturnsBitAndAdvances : (peripheral 0x09 5 false).fault.valid = false := rfl

theorem witness_PressSetsOneBit_ReleaseClearsOneBit :
    State.reset.fault.valid = false ∧ (7 : Nat) ≤ 7 ∧ (7 < 8 ∧ 8 < 256) ∧ 7 < 255 ∧ 255 < 256 := by decide

theorem witness_OversizedButtonIndexFaults :
    State.reset.fault.valid = false ∧ 256 ≤ 256 ∧ Instr.rls 256 ∈ [Instr.prs 256, .rls 256] := by decide

/-- For the class clause of `AddressMapRowsCoverOnce`, at both ends of the map. -/
theorem witness_AddressMapRowsCoverOnce :
    (∃ r ∈ mapRows, r.matches 0x0000#16 = true) ∧ ∃ r ∈ mapRows, r.matches 0xFFFF#16 = true := by decide

theorem witness_BitStreamAfterStrobe :
    (peripheral 0x09 5 false).fault.valid = false ∧
    (State.reset.fault.valid = false ∧ State.reset.strobe = false ∧ State.reset.cursor = 0#4) ∧
    ((peripheral 0x01 0 true).fault.valid = false ∧ (peripheral 0x01 0 true).strobe = true ∧
      (peripheral 0x01 0 true).strobePinsCursor) :=
  ⟨rfl, ⟨rfl, rfl, rfl⟩, rfl, rfl, fun _ => rfl⟩

theorem witness_ButtonChangeIsSeenAtOnce : (peripheral 0x09 7 false).fault.valid = false ∧ (7 : Nat) ≤ 7 := by decide

/-- For the statements about a fault taken by a running block. -/
theorem witness_FaultEntryRecordsAndHalts_FaultIsPrecise :
    State.reset.fault.valid = false ∧ exec (.rdb 0x4016#16) State.reset = .next halted ∧
    halted.fault.valid = true ∧
    halted.outcomes = State.reset.outcomes ++ [.fault ⟨.unimplementedRegion, 0x4016#16, .none⟩] ∧
    exec (.rdw 0x3FFF#16) (stubbed 0x5A 0 0 0) = .next (after (.rdw 0x3FFF#16) (stubbed 0x5A 0 0 0)) ∧
    (after (.rdw 0x3FFF#16) (stubbed 0x5A 0 0 0)).fault.valid = true ∧
    exec (.rdb 0x3FFF#16) (stubbed 0x5A 0 0 0) = .next (after (.rdb 0x3FFF#16) (stubbed 0x5A 0 0 0)) :=
  ⟨rfl, rfl, rfl, rfl, rfl, by decide, rfl⟩

theorem witness_HaltedBlockRefusesEverything :
    halted.fault.valid = true ∧ (halted.withFetchWord 32 0).commands = 0x00000000#32 :: [] := by decide

theorem witness_FaultIsForGood :
    (halted.withFetchWord 32 0).fault.valid = true ∧
    Host.Core.run Sys2Proof.core 1 (halted.withFetchWord 32 0) = .next (afterStep (halted.withFetchWord 32 0)) :=
  ⟨rfl, rfl⟩

theorem witness_DelegatedAccessUsesOneMoment :
    exec (.rdw 0x2007#16) (stubbed 1 2 3 4) = .next (after (.rdw 0x2007#16) (stubbed 1 2 3 4)) := rfl

theorem witness_EveryOperationHasOneOutcome :
    (State.reset.withFetchWord 32 0x30000000).commands = 0x30000000#32 :: [] ∧
    (decode 0x30000000#32).instr? = none := by decide

theorem witness_CursorStaysInRangeAndPinned :
    step ((peripheral 0x09 0 true).withFetchWord 32 0x90000000) =
      .next (afterStep ((peripheral 0x09 0 true).withFetchWord 32 0x90000000)) ∧
    (peripheral 0x09 0 true).cursor.toNat ≤ 8 ∧ (peripheral 0x09 0 true).strobe = true ∧
    (peripheral 0x09 0 true).cursor = 0#4 := ⟨rfl, by decide, rfl, rfl⟩

theorem witness_DutyKeptHaltsExactlyOnFatalOperands :
    (stubbed 1 2 3 4).fault.valid = false ∧ (stubbed 1 2 3 4).dutyKept ∧
    exec (.prs 8) (stubbed 1 2 3 4) = .next (after (.prs 8) (stubbed 1 2 3 4)) :=
  ⟨rfl, by simp [State.dutyKept, stubbed], rfl⟩

theorem witness_DutyKeptRunsFaultOnlyThreeWays :
    (State.reset.withFetchWord 32 0x00401600).fault.valid = false ∧
    (State.reset.withFetchWord 32 0x00401600).dutyKept ∧
    Host.Core.run Sys2Proof.core 1 (State.reset.withFetchWord 32 0x00401600) = .next halted ∧
    halted.fault.valid = true :=
  ⟨rfl, nofun, rfl, rfl⟩

theorem witness_StepKeepsInvariant :
    (State.reset.withFetchWord 32 0x100005AB).Inv ∧
    step (State.reset.withFetchWord 32 0x100005AB) =
      .next (afterStep (State.reset.withFetchWord 32 0x100005AB)) :=
  ⟨⟨rfl, Nat.zero_le _, nofun, nofun, rfl, nofun⟩, rfl⟩

/-- For the frame and isolation statements: an operation of each sub-block and each agent that answers. -/
theorem witness_OperationsChangeOnlyTheirOwnState :
    exec (.wrb 0x0005#16 0xAB#8) State.reset = .next (after (.wrb 0x0005#16 0xAB#8) State.reset) ∧
    Instr.subBlock (.wrb 0x0005#16 0xAB#8) = .router ∧ Instr.agent (.wrb 0x0005#16 0xAB#8) = .driver ∧
    exec (.prs 3) State.reset = .next (after (.prs 3) State.reset) ∧
    Instr.subBlock (.prs 3) = .peripheral ∧ Instr.agent (.prs 3) = .button ∧
    exec (.prs 3) halted = .next (after (.prs 3) halted) ∧ halted.fault.valid = true :=
  ⟨rfl, rfl, rfl, rfl, rfl, rfl, rfl, rfl⟩

theorem witness_RouterIgnoresPeripheral :
    Instr.subBlock (.rdb 0x0005#16) = .router ∧
    exec (.rdb 0x0005#16) State.reset = .next (after (.rdb 0x0005#16) State.reset) := ⟨rfl, rfl⟩

theorem witness_PeripheralIgnoresRouter :
    Instr.subBlock .rds = .peripheral ∧ exec .rds State.reset = .next (after .rds State.reset) := ⟨rfl, rfl⟩

theorem witness_ProcessorReferenceIsNeverRead :
    exec (.rdw 0x07FF#16) State.reset = .next (after (.rdw 0x07FF#16) State.reset) := rfl

theorem witness_AgentsShareOnlySnapshot :
    Instr.agent (.rls 3) = .button ∧ Instr.agent (.stb true) = .driver ∧
    exec (.rls 3) State.reset = .next (after (.rls 3) State.reset) ∧
    exec (.stb true) State.reset = .next (after (.stb true) State.reset) := ⟨rfl, rfl, rfl, rfl⟩

end Sys2Proof.Tests
end

section
/-! One outcome per operation (00_scope.md R6): what a body adds to the record, the form of the value it ends
with, and the word that spells nothing. -/

namespace Sys2Proof.Machine

/-! ## What a body leaves of the record -/

/-- From `s` to `t` no outcome was returned, no fault was recorded and at most two events were emitted: what
holds of the body of an operation, before its outcome is returned. -/
structure State.BodyReaches (s t : State) : Prop where
  outcomes : t.outcomes = s.outcomes
  fault : t.fault = s.fault
  events : ∃ es, t.events = s.events ++ es ∧ es.length ≤ 2

theorem State.BodyReaches.of_no_event {s t : State} (ho : t.outcomes = s.outcomes) (hf : t.fault = s.fault)
    (he : t.events = s.events) : s.BodyReaches t :=
  ⟨ho, hf, [], by simp [he], Nat.zero_le _⟩

theorem State.BodyReaches.afterEvent (s : State) (e : Event) : s.BodyReaches (s.afterEvent e) :=
  ⟨rfl, rfl, [e], rfl, by simp⟩

theorem State.BodyReaches.afterEvent_afterEvent (s : State) (e e' : Event) :
    s.BodyReaches ((s.afterEvent e).afterEvent e') :=
  ⟨rfl, rfl, [e, e'], by simp [State.afterEvent], by simp⟩

theorem Effect.bodyReaches {i : Instr} {s t : State} (h : Effect s i t) : s.BodyReaches t := by
  cases h with
  | read | word | store | strobe | bit | press | release => exact .of_no_event rfl rfl rfl
  | readEvent _ e | writeEvent _ _ e | wordEvent _ e => exact .afterEvent s e
  | wordEvents _ e e' => exact .afterEvent_afterEvent s e e'

theorem bodyOf_raised_bodyReaches {i : Instr} {s t : State} {f : FaultInfo} (h : bodyOf i s = .raised f t) :
    s.BodyReaches t := by
  obtain ⟨rfl | ⟨a, e, -, -, rfl⟩, -⟩ := bodyOf_raised h
  · exact .of_no_event rfl rfl rfl
  · exact .afterEvent s e

@[simp] theorem FaultInfo.record_valid (f : FaultInfo) : f.record.valid = true := rfl

/-! ## The form of the value -/

/-- The form of the value an operation ends with (00_scope.md R6): a byte of `RDB`, a word of `RDW`, a bit of
`RDS`, absent for the other four. -/
def Value.hasFormOf (v : Value) : Instr → Prop
  | .rdb _ => ∃ b, v = .byte b
  | .wrb _ _ => v = .absent
  | .rdw _ => ∃ h, v = .word h
  | .stb _ => v = .absent
  | .rds => ∃ b, v = .bit b
  | .prs _ => v = .absent
  | .rls _ => v = .absent

theorem Access.andThen_eq_done {α β : Type} {x : Access α} {k : α → State → Access β} {v : β} {t : State}
    (h : x.andThen k = .done v t) : ∃ u s, x = .done u s ∧ k u s = .done v t := by
  cases x with
  | done u s => exact ⟨u, s, rfl, h⟩
  | raised f s => cases h

theorem bodyOf_done_hasFormOf {i : Instr} {s t : State} {v : Value} (h : bodyOf i s = .done v t) :
    v.hasFormOf i := by
  cases i with
  | rdb a | rdw a =>
    obtain ⟨u, -, hv⟩ := Access.as_eq_done h
    exact ⟨u, hv⟩
  | wrb a b =>
    obtain ⟨-, -, hv⟩ := Access.as_eq_done h
    exact hv
  | stb on => cases h; rfl
  | rds => cases h; exact ⟨_, rfl⟩
  | prs index | rls index =>
    obtain ⟨-, _, -, hk⟩ := Access.andThen_eq_done h
    cases hk; rfl

/-! ## The word that spells nothing -/

theorem step_of_instr?_none {s : State} {w : CommandWord} {rest : List CommandWord}
    (hc : s.commands = w :: rest) (hd : (decode w).instr? = none) :
    step s = .next ((s.setCommands rest).respond .refused) := by
  rw [step, fetch_cons hc]
  cases hw : decode w with
  | spells i => rw [hw] at hd; cases hd
  | invalid why => simp only [hw, rejectWord]

/-! ## One outcome -/

/-- Settles O43, by the three ways `exec` can answer: `REFUSED` on a halted block, and on a running one the
body's value or the fault it raised. -/
theorem everyOperationHasOneOutcome : Obligations.EveryOperationHasOneOutcome := by
  unfold Obligations.EveryOperationHasOneOutcome
  refine ⟨fun i s => ?_, fun s w rest hc hd => step_of_instr?_none hc hd⟩
  obtain ⟨hv, he⟩ | ⟨hv, v, t, hb, he⟩ | ⟨hv, f, t, hb, he⟩ := exec_cases i s
  · exact ⟨s.respond .refused, .refused, he, rfl, ⟨[], by simp, by simp⟩, by simp [hv], fun _ => rfl,
      by simp [hv], nofun⟩
  · have ht := (bodyOf_done hb).bodyReaches
    refine ⟨t.respond (.ok v), .ok v, he, by simp [ht.outcomes], ht.events, by simp [hv], nofun,
      by simp [hv, ht.fault], fun v' hr => ?_⟩
    cases hr
    have hform := bodyOf_done_hasFormOf hb
    cases i <;> exact hform
  · have ht := bodyOf_raised_bodyReaches hb
    exact ⟨t.takeFault f, .fault f, he, by simp [ht.outcomes], ht.events, by simp [hv], nofun,
      by simp [hv], nofun⟩

end Sys2Proof.Machine
end

section
/-! The state (10_state.md): what reset leaves (R25), the frame of an operation (R20), and the cursor's range
and its pin under the strobe (R18, R19). -/

namespace Sys2Proof.Machine

/-! ## Reset -/

/-- Settles O1: the store is the empty list, each of whose cells reads as 0x00, and the registers, the references
and the event history are the literals of `State.reset`. -/
theorem resetLeavesSpecifiedValues : Obligations.ResetLeavesSpecifiedValues := by
  unfold Obligations.ResetLeavesSpecifiedValues
  exact ⟨fun index _ => Memory.read_nil index, rfl, rfl, rfl, rfl, rfl, rfl, rfl, rfl⟩

/-! ## The next state of an operation -/

/-- Everything the next state of an operation can be: the same with the outcome `REFUSED` on a halted block; the
body's effect with its value; or fault entry where the body stopped. -/
theorem exec_next_cases {i : Instr} {s t : State} (h : exec i s = .next t) :
    (s.fault.valid = true ∧ t = s.respond .refused) ∨
    (s.fault.valid = false ∧ ∃ u v, Effect s i u ∧ t = u.respond (.ok v)) ∨
    (s.fault.valid = false ∧ ∃ u f, (u = s ∨ ∃ a e, i = .rdw a ∧ u = s.afterEvent e) ∧ t = u.takeFault f) := by
  obtain ⟨hv, he⟩ | ⟨hv, v, u, hb, he⟩ | ⟨hv, f, u, hb, he⟩ := exec_cases i s <;>
    obtain rfl := Host.Outcome.next.inj (h.symm.trans he)
  · exact .inl ⟨hv, rfl⟩
  · exact .inr (.inl ⟨hv, u, v, bodyOf_done hb, rfl⟩)
  · obtain ⟨rfl | ⟨a, e, hi, -, hu⟩, -⟩ := bodyOf_raised hb
    · exact .inr (.inr ⟨hv, u, f, .inl rfl, rfl⟩)
    · exact .inr (.inr ⟨hv, u, f, .inr ⟨a, e, hi, hu⟩, rfl⟩)

/-! ## The frame -/

/-- The frame of an operation (10_state.md R20) from `s` to `t`, the fault record and the outcomes apart: which
fields the operation's own rule does not name, and so leaves. -/
structure State.FrameOf (s : State) (i : Instr) (t : State) : Prop where
  router : i.subBlock = .router → t.snapshot = s.snapshot ∧ t.cursor = s.cursor ∧ t.strobe = s.strobe
  peripheral : i.subBlock = .peripheral →
    t.ram = s.ram ∧ t.events = s.events ∧ t.env = s.env ∧ t.draws = s.draws
  ram : (∀ a v, i ≠ .wrb a v) → t.ram = s.ram
  snapshot : (∀ index, i ≠ .prs index ∧ i ≠ .rls index) → t.snapshot = s.snapshot
  strobe : (∀ on, i ≠ .stb on) → t.strobe = s.strobe
  cursor : i ≠ .rds → (∀ on, i ≠ .stb on) → t.cursor = s.cursor
  refs : t.refs = s.refs
  commands : t.commands = s.commands

theorem State.FrameOf.refl (s : State) (i : Instr) : s.FrameOf i s := by
  constructor <;> simp

theorem State.FrameOf.respond {i : Instr} {s t : State} (h : s.FrameOf i t) (r : Result) : s.FrameOf i (t.respond r) :=
  ⟨h.router, h.peripheral, h.ram, h.snapshot, h.strobe, h.cursor, h.refs, h.commands⟩

theorem State.FrameOf.takeFault {i : Instr} {s t : State} (h : s.FrameOf i t) (f : FaultInfo) :
    s.FrameOf i (t.takeFault f) :=
  ⟨h.router, h.peripheral, h.ram, h.snapshot, h.strobe, h.cursor, h.refs, h.commands⟩

/-- A delegated access is in the frame of the router's operations alone. -/
theorem State.FrameOf.afterEvent {i : Instr} {s t : State} (h : s.FrameOf i t) (hi : i.subBlock = .router)
    (e : Event) : s.FrameOf i (t.afterEvent e) where
  router := h.router
  peripheral hp := nomatch hi.symm.trans hp
  ram := h.ram
  snapshot := h.snapshot
  strobe := h.strobe
  cursor := h.cursor
  refs := h.refs
  commands := h.commands

/-- What a body that ended with a value did is in the operation's frame: a read changes nothing or makes its
delegated accesses, and each write is to the field that its operation owns. -/
theorem Effect.frame {i : Instr} {s t : State} (h : Effect s i t) : s.FrameOf i t := by
  cases h with
  | read | word => exact .refl s _
  | readEvent _ e | writeEvent _ _ e | wordEvent _ e => exact (State.FrameOf.refl s _).afterEvent rfl e
  | wordEvents _ e e' => exact ((State.FrameOf.refl s _).afterEvent rfl e).afterEvent rfl e'
  | store | strobe | bit | press | release => constructor <;> simp [Instr.subBlock]

theorem exec_frame {i : Instr} {s t : State} (h : exec i s = .next t) : s.FrameOf i t := by
  obtain ⟨-, rfl⟩ | ⟨-, u, v, hu, rfl⟩ | ⟨-, u, f, rfl | ⟨a, e, rfl, rfl⟩, rfl⟩ := exec_next_cases h
  · exact (State.FrameOf.refl s i).respond .refused
  · exact hu.frame.respond (.ok v)
  · exact (State.FrameOf.refl u i).takeFault f
  · exact ((State.FrameOf.refl s _).afterEvent rfl e).takeFault f

/-- A recorded fault is never overwritten (60_exceptions.md R98). -/
theorem exec_fault_of_halted {i : Instr} {s t : State} (h : exec i s = .next t) (hv : s.fault.valid = true) :
    t.fault = s.fault := by
  rw [exec_eq_perform, perform_halted hv] at h
  cases h
  rfl

/-- Settles O44, by the frame of each way an operation can end. -/
theorem operationsChangeOnlyTheirOwnState : Obligations.OperationsChangeOnlyTheirOwnState := by
  unfold Obligations.OperationsChangeOnlyTheirOwnState
  intro i s t h
  have hf := exec_frame h
  exact ⟨hf.router, hf.peripheral, hf.ram, hf.snapshot, hf.strobe, hf.cursor, hf.refs, hf.commands,
    exec_fault_of_halted h⟩

/-! ## The cursor -/

@[simp] theorem cursorAfterStrobe_true (c : BitVec 4) : cursorAfterStrobe true c = 0 := rfl

@[simp] theorem cursorAfterStrobe_false (c : BitVec 4) : cursorAfterStrobe false c = c := rfl

@[simp] theorem cursorAfterRead_true (c : BitVec 4) : cursorAfterRead true c = 0 := rfl

@[simp] theorem cursorAfterRead_false (c : BitVec 4) : cursorAfterRead false c = cursorAdvanced c := rfl

theorem cursorAfterStrobe_toNat_le (on : Bool) {c : BitVec 4} (h : c.toNat ≤ 8) :
    (cursorAfterStrobe on c).toNat ≤ 8 := by
  cases on with
  | false => simpa using h
  | true => simp

/-- After a read the cursor is at most 8 even from the unreachable encodings 9 to 15 (log entry 9). -/
theorem cursorAfterRead_toNat_le (strobe : Bool) (c : BitVec 4) : (cursorAfterRead strobe c).toNat ≤ 8 := by
  cases strobe with
  | false => rw [cursorAfterRead_false, cursorAdvanced_toNat]; exact Nat.min_le_right _ _
  | true => simp

/-- From `s` to `t` the cursor's two invariants are kept, each on its own (10_state.md R18, R19). -/
structure State.KeepsCursor (s t : State) : Prop where
  inRange : s.cursorInRange → t.cursorInRange
  pinned : s.strobePinsCursor → t.strobePinsCursor

theorem State.KeepsCursor.of_eq {s t : State} (hc : t.cursor = s.cursor) (hs : t.strobe = s.strobe) :
    s.KeepsCursor t := by
  constructor
  · simp only [State.cursorInRange, hc, imp_self]
  · simp only [State.strobePinsCursor, hc, hs, imp_self]

/-- `STB` writes the cursor 0 with the strobe high and leaves it otherwise (42_peripheral_ops.md R77). -/
theorem State.KeepsCursor.strobe (s : State) (on : Bool) :
    s.KeepsCursor ((s.setStrobe on).setCursor (cursorAfterStrobe on s.cursor)) where
  inRange := cursorAfterStrobe_toNat_le on
  pinned _ hon := by
    rw [State.setCursor_strobe, State.setStrobe_strobe] at hon
    rw [State.setCursor_cursor, hon, cursorAfterStrobe_true]

/-- `RDS` saturates the cursor at 8 and forces it to 0 while the strobe is high (42_peripheral_ops.md R78). -/
theorem State.KeepsCursor.bit (s : State) : s.KeepsCursor (s.setCursor (cursorAfterRead s.strobe s.cursor)) where
  inRange _ := cursorAfterRead_toNat_le s.strobe s.cursor
  pinned _ hs := by
    rw [State.setCursor_strobe] at hs
    rw [State.setCursor_cursor, hs, cursorAfterRead_true]

theorem State.KeepsCursor.respond {s t : State} (h : s.KeepsCursor t) (r : Result) :
    s.KeepsCursor (t.respond r) :=
  ⟨h.inRange, h.pinned⟩

theorem Effect.keepsCursor {i : Instr} {s t : State} (h : Effect s i t) : s.KeepsCursor t := by
  cases h with
  | read | readEvent | store | writeEvent | word | wordEvent | wordEvents | press | release =>
    exact .of_eq rfl rfl
  | strobe on => exact .strobe s on
  | bit => exact .bit s

theorem exec_keepsCursor {i : Instr} {s t : State} (h : exec i s = .next t) : s.KeepsCursor t := by
  obtain ⟨-, rfl⟩ | ⟨-, u, v, hu, rfl⟩ | ⟨-, u, f, rfl | ⟨a, e, rfl, rfl⟩, rfl⟩ := exec_next_cases h
  · exact .of_eq rfl rfl
  · exact hu.keepsCursor.respond (.ok v)
  · exact .of_eq rfl rfl
  · exact .of_eq rfl rfl

/-- A step only takes the command word before its operation is performed or refused. -/
theorem step_keepsCursor {s t : State} (h : step s = .next t) : s.KeepsCursor t := by
  obtain ⟨w, rest, why, -, -, rfl⟩ | ⟨w, rest, i, -, -, hp⟩ := step_next_cases h
  · exact .of_eq rfl rfl
  · rw [← exec_eq_perform] at hp
    have hk := exec_keepsCursor hp
    exact ⟨hk.inRange, hk.pinned⟩

/-- Settles O41: reset has the cursor 0, and a step changes the cursor and the strobe through `STB` and `RDS`
alone. -/
theorem cursorStaysInRangeAndPinned : Obligations.CursorStaysInRangeAndPinned := by
  unfold Obligations.CursorStaysInRangeAndPinned
  refine ⟨⟨Nat.zero_le 8, fun _ => rfl⟩, fun s t h => ?_⟩
  have hk := step_keepsCursor h
  exact ⟨hk.inRange, hk.pinned⟩

end Sys2Proof.Machine
end

section
/-! The memory (20_memory.md): the gate-level decoder against the classifier (R30), the mirrored store (R32), the
mirrored register window (R34) and the byte order of a word (R40). -/

namespace Sys2Proof.Machine

/-! ## The address ranges of the classes -/

/-- The table of 20_memory.md R29: the addresses of a class, by number. The classifier and the select lines of
the gate-level decoder are both tied to it. -/
def Region.spans (a : Addr) : Region → Prop
  | .ram => a.toNat ≤ 0x1FFF
  | .ppu => 0x2000 ≤ a.toNat ∧ a.toNat ≤ 0x3FFF
  | .apuio => 0x4000 ≤ a.toNat ∧ a.toNat ≤ 0x4017
  | .test => 0x4018 ≤ a.toNat ∧ a.toNat ≤ 0x401F
  | .mapper => 0x4020 ≤ a.toNat ∧ a.toNat ≤ 0xFFFE
  | .invalid => a.toNat = 0xFFFF

theorem Region.classify_spans (a : Addr) : (classify a).spans a := by
  obtain ⟨h, hc⟩ | ⟨h, h', hc⟩ | ⟨h, h', hc⟩ | ⟨h, h', hc⟩ | ⟨h, h', hc⟩ | ⟨rfl, hc⟩ := classify_cases a
  all_goals rw [hc]
  · exact h
  · exact ⟨h, h'⟩
  · exact ⟨h, h'⟩
  · exact ⟨h, h'⟩
  · exact ⟨h, h'⟩
  · rfl

theorem classify_of_spans {a : Addr} {r : Region} (h : r.spans a) : classify a = r := by
  cases r with
  | ram => exact classify_ram h
  | ppu => exact classify_ppu h.1 h.2
  | apuio => exact classify_apuio h.1 h.2
  | test => exact classify_test h.1 h.2
  | mapper => exact classify_mapper h.1 h.2
  | invalid =>
    obtain rfl : a = 0xFFFF#16 := BitVec.eq_of_toNat_eq h
    exact classify_invalid

theorem classify_eq_iff_spans {a : Addr} {r : Region} : classify a = r ↔ r.spans a :=
  ⟨fun h => h ▸ Region.classify_spans a, classify_of_spans⟩

/-! ## The gate-level decoder -/

/-- A field of an address, as a number: what the gates of the decoder compare. -/
theorem addrBits_eq_iff (a : Addr) (start len : Nat) (k : BitVec len) :
    a.extractLsb' start len = k ↔ a.toNat / 2 ^ start % 2 ^ len = k.toNat := by
  rw [← BitVec.toNat_inj, BitVec.extractLsb'_toNat, Nat.shiftRight_eq_div_pow]

theorem inIoBlock_iff (a : Addr) : inIoBlock a = true ↔ 0x4000 ≤ a.toNat ∧ a.toNat ≤ 0x401F := by
  have hb := a.isLt
  rw [inIoBlock, beq_iff_eq, addrBits_eq_iff]
  simp only [BitVec.toNat_ofNat]
  omega

/-- Each line by its gates: the top bits alone, the I/O block split by its bits 4:3, the one address that is all
ones, and whatever none of these takes. -/
theorem selectLine_iff_spans {a : Addr} {r : Region} : selectLine a r = true ↔ r.spans a := by
  have hb := a.isLt
  have hones : a = 0xFFFF#16 ↔ a.toNat = 0xFFFF := BitVec.toNat_inj.symm
  cases r with
  | ram | ppu =>
    simp only [selectLine, beq_iff_eq, addrBits_eq_iff, BitVec.toNat_ofNat, Region.spans]
    omega
  | apuio | test =>
    simp only [selectLine, Bool.and_eq_true, inIoBlock_iff, bne_iff_ne, ne_eq, beq_iff_eq, addrBits_eq_iff,
      BitVec.toNat_ofNat, Region.spans]
    omega
  | invalid => exact beq_iff_eq.trans hones
  | mapper =>
    simp only [selectLine, Bool.not_eq_true', ← Bool.not_eq_true, Bool.or_eq_true, inIoBlock_iff, beq_iff_eq, hones,
      addrBits_eq_iff, BitVec.toNat_ofNat, Region.spans]
    omega

theorem selectLine_iff_classify (a : Addr) (r : Region) : selectLine a r = true ↔ classify a = r :=
  selectLine_iff_spans.trans classify_eq_iff_spans.symm

/-- Settles O12: a select line and the classifier are tied to the one range table, so exactly the line of the
address's class is 1. -/
theorem gateDecoderIsClassifier : Obligations.GateDecoderIsClassifier := by
  unfold Obligations.GateDecoderIsClassifier
  refine ⟨selectLine_iff_classify, fun a => ?_, by decide⟩
  simp only [selectLine_iff_classify]
  exact existsUnique_eq'

/-! ## Bytes of the store -/

theorem exec_running {i : Instr} {s : State} (h : s.fault.valid = false) : exec i s = .next (bodyOf i s).finish := by
  rw [exec_eq_perform, perform_running h]

theorem readByte_ram {a : Addr} (h : a.toNat ≤ 0x1FFF) (s : State) :
    readByte a s = .done (s.ram.read (storeIndex a)) s := by
  simp only [readByte, classify_ram h, storeRead_inside (storeIndex_lt a)]

theorem writeByte_ram {a : Addr} (h : a.toNat ≤ 0x1FFF) (v : Byte) (s : State) :
    writeByte a v s = .done () (s.setRam (s.ram.write (storeIndex a) v)) := by
  simp only [writeByte, classify_ram h, storeWrite_inside (storeIndex_lt a)]

theorem exec_rdb_ram {a : Addr} {s : State} (hv : s.fault.valid = false) (ha : a.toNat ≤ 0x1FFF) :
    exec (.rdb a) s = .next (s.respond (.ok (.byte (s.ram.read (storeIndex a))))) := by
  simp only [exec_running hv, bodyOf, readByte_ram ha, Access.as_done, Access.finish_done]

theorem exec_wrb_ram {a : Addr} {v : Byte} {s : State} (hv : s.fault.valid = false) (ha : a.toNat ≤ 0x1FFF) :
    exec (.wrb a v) s = .next ((s.setRam (s.ram.write (storeIndex a) v)).respond (.ok .absent)) := by
  simp only [exec_running hv, bodyOf, writeByte_ram ha, Access.as_done, Access.finish_done]

theorem storeIndex_eq_mod (a : Addr) : storeIndex a = a.toNat % 0x800 := rfl

/-- "two `RAM` addresses name the same cell exactly when their low 11 bits are equal" (20_memory.md R32). -/
theorem storeIndex_eq_iff (a b : Addr) : storeIndex a = storeIndex b ↔ a.extractLsb' 0 11 = b.extractLsb' 0 11 := by
  simp [addrBits_eq_iff, storeIndex_eq_mod]

/-- Settles O25, by the read-after-write law of a canonical store and the low bits that name a cell. -/
theorem mirroredStoreReadAfterWrite : Obligations.MirroredStoreReadAfterWrite := by
  unfold Obligations.MirroredStoreReadAfterWrite
  intro a b v s hv hwf ha hb
  refine ⟨_, _, exec_wrb_ram hv ha, exec_rdb_ram hv hb, ?_⟩
  rw [← storeIndex_eq_mod]
  simp [Memory.read_write hwf, storeIndex_eq_iff]

/-! ## Registers of the Picture Unit -/

/-- `reg` is the low 3 bits of the address: the window's base is a multiple of 8 (20_memory.md R34). -/
theorem ppuReg_eq_extractLsb' (a : Addr) : ppuReg a = a.extractLsb' 0 3 := by
  apply BitVec.eq_of_toNat_eq
  simp only [ppuReg, Config.ppuBase, Config.ppuNReg, BitVec.toNat_ofNat, BitVec.toNat_sub, BitVec.extractLsb'_toNat,
    Nat.shiftRight_zero]
  omega

theorem readByte_ppu {a : Addr} {s : State} (hp : s.availPpu = true) (lo : 0x2000 ≤ a.toNat)
    (hi : a.toNat ≤ 0x3FFF) :
    readByte a s = .done (s.ppuAnswer (ppuReg a)) (s.afterEvent (.ppuRead (ppuReg a))) := by
  simp only [readByte, classify_ppu lo hi, resolvePpu_available hp, Access.andThen_done, ppuReadRegister,
    State.afterEvent]

theorem writeByte_ppu {a : Addr} {s : State} (hp : s.availPpu = true) (lo : 0x2000 ≤ a.toNat)
    (hi : a.toNat ≤ 0x3FFF) (v : Byte) :
    writeByte a v s = .done () (s.afterEvent (.ppuWrite (ppuReg a) v)) := by
  simp only [writeByte, classify_ppu lo hi, resolvePpu_available hp, Access.andThen_done, ppuWriteRegister,
    State.afterEvent]

theorem exec_rdb_ppu {a : Addr} {s : State} (hv : s.fault.valid = false) (hp : s.availPpu = true)
    (lo : 0x2000 ≤ a.toNat) (hi : a.toNat ≤ 0x3FFF) :
    exec (.rdb a) s = .next ((s.afterEvent (.ppuRead (ppuReg a))).respond (.ok (.byte (s.ppuAnswer (ppuReg a))))) := by
  simp only [exec_running hv, bodyOf, readByte_ppu hp lo hi, Access.as_done, Access.finish_done]

theorem exec_wrb_ppu {a : Addr} {v : Byte} {s : State} (hv : s.fault.valid = false) (hp : s.availPpu = true)
    (lo : 0x2000 ≤ a.toNat) (hi : a.toNat ≤ 0x3FFF) :
    exec (.wrb a v) s = .next ((s.afterEvent (.ppuWrite (ppuReg a) v)).respond (.ok .absent)) := by
  simp only [exec_running hv, bodyOf, writeByte_ppu hp lo hi, Access.as_done, Access.finish_done]

@[simp] theorem State.afterEvent_events (s : State) (e : Event) : (s.afterEvent e).events = s.events ++ [e] := rfl

/-- Settles O26: each access emits one event, which carries the register and no other part of the address. -/
theorem registerWindowMirroring : Obligations.RegisterWindowMirroring := by
  unfold Obligations.RegisterWindowMirroring
  intro a b v s hv hp ha ha' hb hb'
  refine ⟨⟨_, _, exec_rdb_ppu hv hp ha ha', exec_rdb_ppu hv hp hb hb', ?_⟩,
    ⟨_, _, exec_wrb_ppu hv hp ha ha', exec_wrb_ppu hv hp hb hb', ?_⟩⟩ <;>
    simp [ppuReg_eq_extractLsb']

/-! ## Words of the store -/

theorem storeIndex_nextAddr_ne (a : Addr) : storeIndex (nextAddr a) ≠ storeIndex a := by
  simp only [storeIndex_eq_mod, nextAddr_toNat]
  omega

theorem nextAddr_ram {a : Addr} (h : a.toNat < 0x1FFF) : (nextAddr a).toNat ≤ 0x1FFF := by
  rw [nextAddr_toNat]
  omega

theorem exec_rdw_ram {a : Addr} {s : State} (hv : s.fault.valid = false) (ha : a.toNat < 0x1FFF) :
    exec (.rdw a) s = .next (s.respond (.ok (.word
      (s.ram.read (storeIndex (nextAddr a)) ++ s.ram.read (storeIndex a))))) := by
  have hn := nextAddr_ram ha
  simp only [exec_running hv, bodyOf, readWord, readByte_ram ha.le, readByte_ram hn, Access.andThen_done,
    Access.as_done, Access.finish_done, joinBytes_eq]

/-- Settles O27: the second write is to another cell than the first, so the word joins the two bytes written. -/
theorem wordReadIsLittleEndian : Obligations.WordReadIsLittleEndian := by
  unfold Obligations.WordReadIsLittleEndian
  intro a low high s hv hwf ha
  have hn := nextAddr_ram ha
  rw [← nextAddr]
  refine ⟨_, _, _, high ++ low, exec_wrb_ram hv ha.le, exec_wrb_ram hv hn, exec_rdw_ram hv ha, ?_,
    BitVec.extractLsb'_append_eq_right, BitVec.extractLsb'_append_eq_left⟩
  have hwf' := Memory.write_wf hwf (storeIndex_lt a) low
  simp [Memory.read_write hwf', Memory.read_write hwf, (storeIndex_nextAddr_ne a).symm]

end Sys2Proof.Machine
end

section
/-! The encoding (30_encoding.md): the command word by match and mask (R60, R61), the reserved words (R63), the
response word (R62), and the mirrored address formats (R54, R55). -/

namespace Sys2Proof

/-! ## Match and mask, field by field -/

/-- The four fields of R59 are the whole word. -/
theorem fields_append (w : CommandWord) : opField w ++ zeroField w ++ addrField w ++ dataField w = w := by
  simp only [opField, zeroField, addrField, dataField]
  rw [BitVec.extractLsb'_append_extractLsb'_eq_extractLsb' (show 28 = 24 + 4 from rfl),
    BitVec.extractLsb'_append_extractLsb'_eq_extractLsb' (show 24 = 8 + 16 from rfl),
    BitVec.extractLsb'_append_extractLsb'_eq_extractLsb' (show 8 = 0 + 8 from rfl), BitVec.extractLsb'_eq_self]

theorem eq_iff_fields (w v : CommandWord) :
    w = v ↔ opField w = opField v ∧ zeroField w = zeroField v ∧ addrField w = addrField v ∧
      dataField w = dataField v := by
  constructor
  · rintro rfl
    exact ⟨rfl, rfl, rfl, rfl⟩
  · rintro ⟨hop, hzero, haddr, hdata⟩
    rw [← fields_append w, hop, hzero, haddr, hdata, fields_append]

theorem and_eq_iff_fields (w mask v : CommandWord) :
    w &&& mask = v ↔ opField w &&& opField mask = opField v ∧ zeroField w &&& zeroField mask = zeroField v ∧
      addrField w &&& addrField mask = addrField v ∧ dataField w &&& dataField mask = dataField v := by
  rw [eq_iff_fields]
  simp only [opField, zeroField, addrField, dataField, BitVec.extractLsb'_and]

/-- A mask that keeps the upper bits compares the upper bits. -/
theorem and_upperMask_iff {m n : Nat} (x : BitVec (m + n)) (k : BitVec m) :
    x &&& (BitVec.allOnes m ++ 0#n) = k ++ 0#n ↔ x.extractLsb' n m = k := by
  have hx : x.extractLsb' n m ++ x.extractLsb' 0 n = x := by
    rw [BitVec.extractLsb'_append_extractLsb'_eq_extractLsb' (Nat.zero_add n).symm, BitVec.extractLsb'_eq_self]
  conv_lhs => rw [← hx]
  rw [BitVec.and_append, BitVec.and_allOnes, BitVec.and_zero, BitVec.append_left_inj]

/-- The `op` field stands under the mask of every row whole. -/
theorem CommandRow.op_of_matches {r : CommandRow} {w : CommandWord} (hr : r ∈ commandRows) (hw : r.matches w = true) :
    opField w = opField r.matchBits := by
  have hmask : ∀ r ∈ commandRows, opField r.mask = .allOnes 4 := by decide
  obtain ⟨hop, -⟩ := (and_eq_iff_fields _ _ _).1 (beq_iff_eq.1 hw)
  rwa [hmask r hr, BitVec.and_allOnes] at hop

/-- "The seven rows are pairwise disjoint" (R60): each has an `op` of its own. -/
theorem commandRows_disjoint {p q : CommandRow} {w : CommandWord} (hp : p ∈ commandRows) (hq : q ∈ commandRows)
    (hpw : p.matches w = true) (hqw : q.matches w = true) : p = q := by
  have hops : ∀ p ∈ commandRows, ∀ q ∈ commandRows, opField p.matchBits = opField q.matchBits → p = q := by
    decide
  exact hops p hp q hq ((CommandRow.op_of_matches hp hpw).symm.trans (CommandRow.op_of_matches hq hqw))

/-! ## What a word spells, field by field -/

/-- The row of R60 that spells an operation, in the fields of R59, with the operands R61 assembles from them. -/
def Instr.spelledBy (w : CommandWord) : Instr → Prop
  | .rdb a => opField w = opRdb ∧ zeroField w = 0#4 ∧ dataField w = 0#8 ∧ a = addrField w
  | .wrb a v => opField w = opWrb ∧ zeroField w = 0#4 ∧ a = addrField w ∧ v = dataField w
  | .rdw a => opField w = opRdw ∧ zeroField w = 0#4 ∧ dataField w = 0#8 ∧ a = addrField w
  | .stb on => opField w = opStb ∧ zeroField w = 0#4 ∧ addrField w = 0#16 ∧
      (dataField w).extractLsb' 1 7 = 0#7 ∧ on = (dataField w).getLsbD 0
  | .rds => opField w = opRds ∧ zeroField w = 0#4 ∧ addrField w = 0#16 ∧ dataField w = 0#8
  | .prs index => opField w = opPrs ∧ zeroField w = 0#4 ∧ addrField w = 0#16 ∧ index = (dataField w).toNat
  | .rls index => opField w = opRls ∧ zeroField w = 0#4 ∧ addrField w = 0#16 ∧ index = (dataField w).toNat

@[simp] theorem Decoded.instr?_spells (i : Instr) : (Decoded.spells i).instr? = some i := rfl

@[simp] theorem Decoded.instr?_invalid (why : DecodeError) : (Decoded.invalid why).instr? = none := rfl

@[simp] theorem Decoded.require_eq_spells {ok : Bool} {why : DecodeError} {d : Decoded} {i : Instr} :
    d.require ok why = .spells i ↔ ok = true ∧ d = .spells i := by
  cases ok <;> simp [Decoded.require]

@[simp] theorem Decoded.require_instr?_eq_none {ok : Bool} {why : DecodeError} {d : Decoded} :
    (d.require ok why).instr? = none ↔ ok ≠ true ∨ d.instr? = none := by
  cases ok <;> simp [Decoded.require]

theorem spelledBy_of_decode {w : CommandWord} {i : Instr} (h : decode w = .spells i) : i.spelledBy w := by
  simp only [decode, Decoded.require_eq_spells, beq_iff_eq] at h
  obtain ⟨hzero, h⟩ := h
  unfold decodeOp decodePeripheral decodeNoData at h
  split_ifs at h with hop hop hop hop hop hop hop <;>
    simp only [Decoded.require_eq_spells, Decoded.spells.injEq, beq_iff_eq] at h
  · obtain ⟨hdata, rfl⟩ := h
    exact ⟨hop, hzero, hdata, rfl⟩
  · obtain rfl := h
    exact ⟨hop, hzero, rfl, rfl⟩
  · obtain ⟨hdata, rfl⟩ := h
    exact ⟨hop, hzero, hdata, rfl⟩
  · obtain ⟨haddr, hdata, rfl⟩ := h
    exact ⟨hop, hzero, haddr, hdata, rfl⟩
  · obtain ⟨haddr, hdata, rfl⟩ := h
    exact ⟨hop, hzero, haddr, hdata⟩
  · obtain ⟨haddr, rfl⟩ := h
    exact ⟨hop, hzero, haddr, rfl⟩
  · obtain ⟨haddr, rfl⟩ := h
    exact ⟨hop, hzero, haddr, rfl⟩

theorem decode_of_spelledBy {w : CommandWord} {i : Instr} (h : i.spelledBy w) : decode w = .spells i := by
  cases i with
  | rdb a | rdw a =>
    obtain ⟨hop, hzero, hdata, rfl⟩ := h
    simp +decide [decode, hzero, decodeOp, hop, decodeNoData, hdata]
  | wrb a v =>
    obtain ⟨hop, hzero, rfl, rfl⟩ := h
    simp +decide [decode, hzero, decodeOp, hop]
  | stb on =>
    obtain ⟨hop, hzero, haddr, hdata, rfl⟩ := h
    simp +decide [decode, hzero, decodeOp, hop, decodePeripheral, haddr, hdata]
  | rds =>
    obtain ⟨hop, hzero, haddr, hdata⟩ := h
    simp +decide [decode, hzero, decodeOp, hop, decodePeripheral, haddr, decodeNoData, hdata]
  | prs index | rls index =>
    obtain ⟨hop, hzero, haddr, rfl⟩ := h
    simp +decide [decode, hzero, decodeOp, hop, decodePeripheral, haddr]

theorem decode_eq_spells_iff (w : CommandWord) (i : Instr) : decode w = .spells i ↔ i.spelledBy w :=
  ⟨spelledBy_of_decode, decode_of_spelledBy⟩

/-! ## What a word spells, by match and mask -/

/-- The row of R60 of an operation. -/
def Instr.row : Instr → CommandRow
  | .rdb _ => ⟨"RDB", 0x00000000#32, 0xFF0000FF#32⟩
  | .wrb _ _ => ⟨"WRB", 0x10000000#32, 0xFF000000#32⟩
  | .rdw _ => ⟨"RDW", 0x20000000#32, 0xFF0000FF#32⟩
  | .stb _ => ⟨"STB", 0x80000000#32, 0xFFFFFFFE#32⟩
  | .rds => ⟨"RDS", 0x90000000#32, 0xFFFFFFFF#32⟩
  | .prs _ => ⟨"PRS", 0xA0000000#32, 0xFFFFFF00#32⟩
  | .rls _ => ⟨"RLS", 0xB0000000#32, 0xFFFFFF00#32⟩

/-- The operands are those R61 assembles from the word. -/
def Instr.operandsFrom (w : CommandWord) : Instr → Prop
  | .rdb a => a = w.extractLsb' 8 16
  | .wrb a v => a = w.extractLsb' 8 16 ∧ v = w.extractLsb' 0 8
  | .rdw a => a = w.extractLsb' 8 16
  | .stb on => on = w.getLsbD 0
  | .rds => True
  | .prs index => index = (w.extractLsb' 0 8).toNat
  | .rls index => index = (w.extractLsb' 0 8).toNat

theorem Instr.row_mem (i : Instr) : i.row ∈ commandRows := by
  cases i <;> simp [Instr.row, commandRows]

/-- Each row is the row of an operation whose operands the word supplies. -/
theorem exists_instr_of_row {r : CommandRow} (hr : r ∈ commandRows) (w : CommandWord) :
    ∃ i : Instr, i.row = r ∧ i.operandsFrom w := by
  simp only [commandRows, List.mem_cons, List.not_mem_nil, or_false] at hr
  obtain rfl | rfl | rfl | rfl | rfl | rfl | rfl := hr
  · exact ⟨.rdb _, rfl, rfl⟩
  · exact ⟨.wrb _ _, rfl, rfl, rfl⟩
  · exact ⟨.rdw _, rfl, rfl⟩
  · exact ⟨.stb _, rfl, rfl⟩
  · exact ⟨.rds, rfl, trivial⟩
  · exact ⟨.prs _, rfl, rfl⟩
  · exact ⟨.rls _, rfl, rfl⟩

/-- A mask field of all ones keeps the field; `STB`'s keeps the upper seven bits of `data`. -/
theorem Instr.spelledBy_iff_row (w : CommandWord) (i : Instr) :
    i.spelledBy w ↔ w &&& i.row.mask = i.row.matchBits ∧ i.operandsFrom w := by
  have ones4 (x : BitVec 4) : x &&& 0xF#4 = x := BitVec.and_allOnes
  have ones8 (x : BitVec 8) : x &&& 0xFF#8 = x := BitVec.and_allOnes
  have ones16 (x : BitVec 16) : x &&& 0xFFFF#16 = x := by simpa using BitVec.and_allOnes (x := x)
  have upper7 (x : BitVec 8) : x &&& 0xFE#8 = 0#8 ↔ x.extractLsb' 1 7 = 0#7 := by
    simpa using and_upperMask_iff (m := 7) (n := 1) x 0#7
  cases i <;> simp only [Instr.spelledBy, Instr.row, Instr.operandsFrom, and_eq_iff_fields]
  all_goals simp [opField, zeroField, addrField, dataField, ones4, ones8, ones16, upper7, and_assoc]

theorem decode_eq_spells_iff_row (w : CommandWord) (i : Instr) :
    decode w = .spells i ↔ w &&& i.row.mask = i.row.matchBits ∧ i.operandsFrom w :=
  (decode_eq_spells_iff w i).trans (i.spelledBy_iff_row w)

/-- "Bit 31 of `W` tells the sub-block" (R60). -/
theorem decode_topBit {w : CommandWord} {i : Instr} (h : decode w = .spells i) :
    w.getLsbD 31 = true ↔ i.subBlock = .peripheral := by
  have htop : w.getLsbD 31 = (opField w).getLsbD 3 := by simp [opField]
  have hs := spelledBy_of_decode h
  rw [htop]
  cases i <;> obtain ⟨hop, -⟩ := hs <;> simp +decide [hop, Instr.subBlock]

/-- Settles O9: the decoder and the row of each operation say the same of the four fields of R59. -/
theorem wordSpellsByMatchAndMask : Obligations.WordSpellsByMatchAndMask := by
  unfold Obligations.WordSpellsByMatchAndMask
  exact ⟨fun w a => decode_eq_spells_iff_row w (.rdb a), fun w a v => decode_eq_spells_iff_row w (.wrb a v),
    fun w a => decode_eq_spells_iff_row w (.rdw a), fun w on => decode_eq_spells_iff_row w (.stb on),
    fun w => (decode_eq_spells_iff_row w .rds).trans (iff_of_eq (and_true _)),
    fun w index => decode_eq_spells_iff_row w (.prs index), fun w index => decode_eq_spells_iff_row w (.rls index),
    fun _ _ _ hp hq hpw hqw => commandRows_disjoint hp hq hpw hqw, fun _ _ h => decode_topBit h⟩

/-! ## The reserved words -/

/-- The words of R63 in the names of R59's fields and R60's operation codes. -/
theorem reserved_iff_fields (w : CommandWord) : w.reserved ↔
    opField w ∈ [0x3#4, 0x4#4, 0x5#4, 0x6#4, 0x7#4, 0xC#4, 0xD#4, 0xE#4, 0xF#4] ∨ zeroField w ≠ 0#4 ∨
    (opField w ∈ [opRdb, opRdw, opRds] ∧ dataField w ≠ 0#8) ∨
    (opField w ∈ [opStb, opRds, opPrs, opRls] ∧ addrField w ≠ 0#16) ∨
    (opField w = opStb ∧ (dataField w).extractLsb' 1 7 ≠ 0#7) := by
  have hdata : (dataField w).extractLsb' 1 7 = w.extractLsb' 1 7 := BitVec.extractLsb'_extractLsb'_of_le (by decide)
  rw [hdata]
  rfl

/-- The `op` values of no row are the nine that R63 reserves: the last branch of the decoder meets these alone. -/
theorem reservedOp_of_not_mem : ∀ op ∉ [opRdb, opWrb, opRdw, opStb, opRds, opPrs, opRls],
    op ∈ [0x3#4, 0x4#4, 0x5#4, 0x6#4, 0x7#4, 0xC#4, 0xD#4, 0xE#4, 0xF#4] := by
  decide

/-- Each branch of the decoder refuses on the must-be-zero fields of its row alone. -/
theorem reserved_iff_instr?_none (w : CommandWord) : w.reserved ↔ (decode w).instr? = none := by
  rw [reserved_iff_fields, decode, Decoded.require_instr?_eq_none]
  unfold decodeOp decodePeripheral decodeNoData
  split_ifs with hrdb hwrb hrdw hstb hrds hprs hrls
  · simp +decide [hrdb]
  · simp +decide [hwrb]
  · simp +decide [hrdw]
  · simp +decide [hstb]
  · simp +decide [hrds, or_comm]
  · simp +decide [hprs]
  · simp +decide [hrls]
  · have hop := reservedOp_of_not_mem (opField w) (by simp [hrdb, hwrb, hrdw, hstb, hrds, hprs, hrls])
    exact iff_of_true (.inl hop) (.inr rfl)

/-- "Every word `W` that matches no row of rule R60 spells no operation" (R63), and conversely. -/
theorem instr?_none_iff_no_row (w : CommandWord) :
    (decode w).instr? = none ↔ ∀ r ∈ commandRows, r.matches w = false := by
  constructor
  · intro hnone r hr
    obtain ⟨i, rfl, hi⟩ := exists_instr_of_row hr w
    rw [← Bool.not_eq_true, CommandRow.matches, beq_iff_eq]
    intro hrow
    simp [(decode_eq_spells_iff_row w i).2 ⟨hrow, hi⟩] at hnone
  · intro hrows
    cases hd : decode w with
    | invalid why => rfl
    | spells i =>
      obtain ⟨hrow, -⟩ := (decode_eq_spells_iff_row w i).1 hd
      simpa [CommandRow.matches, hrow] using hrows i.row i.row_mem

end Sys2Proof

namespace Sys2Proof.Machine

/-- Settles O5: a word is reserved exactly when the decoder refuses it, and it is refused exactly when no row
supplies an operation. -/
theorem reservedWordIsRefused : Obligations.ReservedWordIsRefused := by
  unfold Obligations.ReservedWordIsRefused
  refine ⟨fun w => (reserved_iff_instr?_none w).trans (instr?_none_iff_no_row w), reserved_iff_instr?_none,
    fun s w rest hc hw => ?_⟩
  exact step_of_instr?_none hc ((reserved_iff_instr?_none w).1 hw)

/-! ## The response word -/

/-- Reading back the fields of a word laid out as `OK` is. -/
theorem okLayout_fields (tag : BitVec 2) (zero : BitVec 14) (value : Half) :
    (tag ++ zero ++ value).extractLsb' 30 2 = tag ∧ (tag ++ zero ++ value).extractLsb' 16 14 = zero ∧
      (tag ++ zero ++ value).extractLsb' 0 16 = value := by
  simp (disch := decide) only [BitVec.extractLsb'_append_eq_of_le, BitVec.extractLsb'_append_eq_of_add_le,
    Nat.reduceSub, BitVec.extractLsb'_eq_self, and_self]

/-- Reading back the fields of a word laid out as `FAULT` is. -/
theorem faultLayout_fields (tag : BitVec 2) (high : BitVec 6) (cause mid : BitVec 3) (comp : BitVec 2) (info : Half) :
    (tag ++ high ++ cause ++ mid ++ comp ++ info).extractLsb' 30 2 = tag ∧
    (tag ++ high ++ cause ++ mid ++ comp ++ info).extractLsb' 24 6 = high ∧
    (tag ++ high ++ cause ++ mid ++ comp ++ info).extractLsb' 21 3 = cause ∧
    (tag ++ high ++ cause ++ mid ++ comp ++ info).extractLsb' 18 3 = mid ∧
    (tag ++ high ++ cause ++ mid ++ comp ++ info).extractLsb' 16 2 = comp ∧
    (tag ++ high ++ cause ++ mid ++ comp ++ info).extractLsb' 0 16 = info := by
  simp (disch := decide) only [BitVec.extractLsb'_append_eq_of_le, BitVec.extractLsb'_append_eq_of_add_le,
    Nat.reduceSub, BitVec.extractLsb'_eq_self, and_self]

theorem response_ok (v : Value) :
    (Result.ok v).response.extractLsb' 30 2 = 0#2 ∧ (Result.ok v).response.extractLsb' 16 14 = 0#14 ∧
      (Result.ok v).response.extractLsb' 0 16 = v.half :=
  okLayout_fields 0#2 0#14 v.half

theorem response_fault (f : FaultInfo) :
    (Result.fault f).response.extractLsb' 30 2 = 1#2 ∧ (Result.fault f).response.extractLsb' 24 6 = 0#6 ∧
    (Result.fault f).response.extractLsb' 21 3 = f.cause.code ∧ (Result.fault f).response.extractLsb' 18 3 = 0#3 ∧
    (Result.fault f).response.extractLsb' 16 2 = f.comp.code ∧
    (Result.fault f).response.extractLsb' 0 16 = f.info :=
  faultLayout_fields 1#2 0#6 f.cause.code 0#3 f.comp.code f.info

/-- Settles O10: each outcome's word, read back by its fields, with the value's 16 bits for every form of value. -/
theorem responseWordLayout : Obligations.ResponseWordLayout := by
  unfold Obligations.ResponseWordLayout
  refine ⟨fun v => ?_, ?_, fun v => ?_, fun v => ?_, fun v => ?_, response_fault, by decide⟩
  · obtain ⟨htag, hzero, -⟩ := response_ok v
    exact ⟨htag, hzero⟩
  all_goals
    obtain ⟨-, -, hvalue⟩ := response_ok _
    exact hvalue

/-! ## The mirrored address formats -/

theorem classify_ram_iff_mask (a : Addr) : classify a = .ram ↔ a &&& 0xE000#16 = 0x0000#16 := by
  rw [← selectLine_iff_classify, selectLine, beq_iff_eq]
  simpa using (and_upperMask_iff (m := 3) (n := 13) a 0b000#3).symm

theorem classify_ppu_iff_mask (a : Addr) : classify a = .ppu ↔ a &&& 0xE000#16 = 0x2000#16 := by
  rw [← selectLine_iff_classify, selectLine, beq_iff_eq]
  simpa using (and_upperMask_iff (m := 3) (n := 13) a 0b001#3).symm

/-- Settles O14: the two classes are the top three bits of the address, and the index and the register its low
bits, which are its remainders. -/
theorem mirrorFieldsAreRemainders : Obligations.MirrorFieldsAreRemainders := by
  unfold Obligations.MirrorFieldsAreRemainders
  refine ⟨fun a => ⟨classify_ram_iff_mask a, classify_ppu_iff_mask a⟩, fun a _ => ⟨storeIndex_eq_mod a, ?_⟩,
    fun a ha => ⟨?_, ppuReg_eq_extractLsb' a⟩, fun a b _ _ h => (storeIndex_eq_iff a b).2 h, fun a b _ _ h => ?_⟩
  · simp [storeIndex_eq_mod]
  · obtain ⟨lo, -⟩ := classify_eq_iff_spans.1 ha
    rw [ppuReg_eq lo]
    simp
  · rw [ppuReg_eq_extractLsb', ppuReg_eq_extractLsb', h]

end Sys2Proof.Machine
end

section
/-! The Linear Store (40_linear_store.md): its bound check never fires in an operation (R68), and what its two
primitives do inside and outside the bound (R66, R67). -/

namespace Sys2Proof.Machine

/-! ## No operation raises the bound fault -/

/-- Code 5 is the bound fault's alone (60_exceptions.md R90). -/
theorem Cause.code_eq_five_iff (c : Cause) : c.code = 5#3 ↔ c = .storeBounds := by
  cases c <;> decide

/-- Settles O17. A body that ended with a value recorded no fault and its outcome is `OK`; one that raised a fault
raised another than the bound fault, since the router reduces the address modulo the capacity. -/
theorem storeBoundNeverFires : Obligations.StoreBoundNeverFires := by
  unfold Obligations.StoreBoundNeverFires
  intro i s t hs h
  obtain ⟨hv, -⟩ | ⟨-, v, u, hb, he⟩ | ⟨-, f, u, hb, he⟩ := exec_cases i s
  · simp [hs] at hv
  · obtain rfl := Host.Outcome.next.inj (h.symm.trans he)
    have hu := (bodyOf_done hb).bodyReaches
    constructor
    · simp [hu.fault, hs]
    · simp [hu.outcomes]
  · obtain rfl := Host.Outcome.next.inj (h.symm.trans he)
    have hu := bodyOf_raised_bodyReaches hb
    obtain ⟨-, -, hf⟩ := bodyOf_raised hb
    constructor
    · simpa [FaultInfo.record, Cause.code_eq_five_iff] using hf
    · simpa [hu.outcomes] using hf

/-! ## The primitives -/

theorem storeRead_outside {index : Nat} (h : 0x800 ≤ index) (s : State) :
    storeRead index s = .raised (storeBounds index) s :=
  if_pos h

theorem storeWrite_outside {index : Nat} (h : 0x800 ≤ index) (v : Byte) (s : State) :
    storeWrite index v s = .raised (storeBounds index) s :=
  if_pos h

/-- Settles O16, by one rule for each primitive on each side of the bound; what the cells read as after a write is
the read-after-write law of a canonical store. -/
theorem storePrimitivesRespectBound : Obligations.StorePrimitivesRespectBound := by
  unfold Obligations.StorePrimitivesRespectBound
  intro index v s
  refine ⟨fun h => storeRead_inside h s, fun h => storeRead_outside h s, fun h hwf => ?_,
    fun h => storeWrite_outside h v s⟩
  exact ⟨_, storeWrite_inside h v s, fun j => Memory.read_write hwf index j v, rfl⟩

end Sys2Proof.Machine
end

section
/-! The router's operations (41_router_ops.md): a byte read and a byte write in every class (R69, R70), the word
read as two byte reads (R71, R72), and its boundary cases (R73). -/

namespace Sys2Proof.Machine

/-! ## The byte accesses of the other classes -/

/-- 0x4000 to 0x401F is the classes `APUIO` and `TEST` together. -/
theorem classify_unimplemented {a : Addr} (lo : 0x4000 ≤ a.toNat) (hi : a.toNat ≤ 0x401F) :
    classify a = .apuio ∨ classify a = .test := by
  rcases Nat.lt_or_ge a.toNat 0x4018 with h | h
  · exact .inl (classify_apuio lo (by omega))
  · exact .inr (classify_test h hi)

theorem readByte_ppu_gone {a : Addr} {s : State} (hp : s.availPpu = false) (lo : 0x2000 ≤ a.toNat)
    (hi : a.toNat ≤ 0x3FFF) : readByte a s = .raised ⟨.unresolvedReference, a, .ppu⟩ s := by
  simp only [readByte, classify_ppu lo hi, resolvePpu_unavailable hp, Access.andThen_raised]

theorem writeByte_ppu_gone {a : Addr} {s : State} (hp : s.availPpu = false) (lo : 0x2000 ≤ a.toNat)
    (hi : a.toNat ≤ 0x3FFF) (v : Byte) : writeByte a v s = .raised ⟨.unresolvedReference, a, .ppu⟩ s := by
  simp only [writeByte, classify_ppu lo hi, resolvePpu_unavailable hp, Access.andThen_raised]

theorem readByte_unimplemented {a : Addr} (lo : 0x4000 ≤ a.toNat) (hi : a.toNat ≤ 0x401F) (s : State) :
    readByte a s = .raised (unimplementedRegion a) s := by
  rcases classify_unimplemented lo hi with hc | hc <;> simp only [readByte, hc]

theorem writeByte_unimplemented {a : Addr} (lo : 0x4000 ≤ a.toNat) (hi : a.toNat ≤ 0x401F) (v : Byte) (s : State) :
    writeByte a v s = .raised (unimplementedRegion a) s := by
  rcases classify_unimplemented lo hi with hc | hc <;> simp only [writeByte, hc]

theorem readByte_mapper {a : Addr} {s : State} (hp : s.availMap = true) (lo : 0x4020 ≤ a.toNat)
    (hi : a.toNat ≤ 0xFFFE) : readByte a s = .done (s.mapAnswer a) (s.afterEvent (.mapRead a)) := by
  simp only [readByte, classify_mapper lo hi, resolveMapper_available hp, Access.andThen_done, mapperReadByte,
    State.afterEvent]

theorem writeByte_mapper {a : Addr} {s : State} (hp : s.availMap = true) (lo : 0x4020 ≤ a.toNat)
    (hi : a.toNat ≤ 0xFFFE) (v : Byte) : writeByte a v s = .done () (s.afterEvent (.mapWrite a v)) := by
  simp only [writeByte, classify_mapper lo hi, resolveMapper_available hp, Access.andThen_done, mapperWriteByte,
    State.afterEvent]

theorem readByte_mapper_gone {a : Addr} {s : State} (hp : s.availMap = false) (lo : 0x4020 ≤ a.toNat)
    (hi : a.toNat ≤ 0xFFFE) : readByte a s = .raised ⟨.unresolvedReference, a, .mapper⟩ s := by
  simp only [readByte, classify_mapper lo hi, resolveMapper_unavailable hp, Access.andThen_raised]

theorem writeByte_mapper_gone {a : Addr} {s : State} (hp : s.availMap = false) (lo : 0x4020 ≤ a.toNat)
    (hi : a.toNat ≤ 0xFFFE) (v : Byte) : writeByte a v s = .raised ⟨.unresolvedReference, a, .mapper⟩ s := by
  simp only [writeByte, classify_mapper lo hi, resolveMapper_unavailable hp, Access.andThen_raised]

theorem readByte_invalid (s : State) : readByte 0xFFFF#16 s = .raised (invalidAddress 0xFFFF#16) s := by
  simp only [readByte, classify_invalid]

theorem writeByte_invalid (v : Byte) (s : State) :
    writeByte 0xFFFF#16 v s = .raised (invalidAddress 0xFFFF#16) s := by
  simp only [writeByte, classify_invalid]

/-! ## The byte operations -/

theorem exec_rdb_done {a : Addr} {v : Byte} {s t : State} (hv : s.fault.valid = false)
    (h : readByte a s = .done v t) : exec (.rdb a) s = .next (t.respond (.ok (.byte v))) := by
  simp only [exec_running hv, bodyOf, h, Access.as_done, Access.finish_done]

theorem exec_rdb_raised {a : Addr} {f : FaultInfo} {s t : State} (hv : s.fault.valid = false)
    (h : readByte a s = .raised f t) : exec (.rdb a) s = .next (t.takeFault f) := by
  simp only [exec_running hv, bodyOf, h, Access.as_raised, Access.finish_raised]

theorem exec_wrb_done {a : Addr} {v : Byte} {u : Unit} {s t : State} (hv : s.fault.valid = false)
    (h : writeByte a v s = .done u t) : exec (.wrb a v) s = .next (t.respond (.ok .absent)) := by
  simp only [exec_running hv, bodyOf, h, Access.as_done, Access.finish_done]

theorem exec_wrb_raised {a : Addr} {v : Byte} {f : FaultInfo} {s t : State} (hv : s.fault.valid = false)
    (h : writeByte a v s = .raised f t) : exec (.wrb a v) s = .next (t.takeFault f) := by
  simp only [exec_running hv, bodyOf, h, Access.as_raised, Access.finish_raised]

/-- Settles O19, by the rule of the byte read in each class: its value or its fault is the operation's. -/
theorem readByteAnswersByClass : Obligations.ReadByteAnswersByClass := by
  unfold Obligations.ReadByteAnswersByClass
  intro a s hv
  refine ⟨fun h => exec_rdb_ram hv h, fun lo hi hp => ?_,
    fun lo hi hp => exec_rdb_raised hv (readByte_ppu_gone hp lo hi),
    fun lo hi => exec_rdb_raised hv (readByte_unimplemented lo hi s),
    fun lo hi hp => ⟨_, exec_rdb_done hv (readByte_mapper hp lo hi), rfl⟩,
    fun lo hi hp => exec_rdb_raised hv (readByte_mapper_gone hp lo hi), ?_⟩
  · rw [← ppuReg_eq lo]
    exact ⟨_, exec_rdb_ppu hv hp lo hi, rfl⟩
  · rintro rfl
    exact exec_rdb_raised hv (readByte_invalid s)

/-- Settles O20, by the rule of the byte write in each class; what the cells read as after is the read-after-write
law of a canonical store. -/
theorem writeByteStoresByClass : Obligations.WriteByteStoresByClass := by
  unfold Obligations.WriteByteStoresByClass
  intro a v s hv
  refine ⟨fun h hwf => ⟨_, exec_wrb_ram hv h, fun index => Memory.read_write hwf (storeIndex a) index v, rfl⟩,
    fun lo hi hp => ?_, fun lo hi hp => exec_wrb_raised hv (writeByte_ppu_gone hp lo hi v),
    fun lo hi => exec_wrb_raised hv (writeByte_unimplemented lo hi v s),
    fun lo hi hp => ⟨_, exec_wrb_done hv (writeByte_mapper hp lo hi v), rfl⟩,
    fun lo hi hp => exec_wrb_raised hv (writeByte_mapper_gone hp lo hi v), ?_⟩
  · rw [← ppuReg_eq lo]
    exact ⟨_, exec_wrb_ppu hv hp lo hi, rfl⟩
  · rintro rfl
    exact exec_wrb_raised hv (writeByte_invalid v s)

/-! ## The word read, byte by byte -/

theorem exec_rdw_low_raised {a : Addr} {f : FaultInfo} {s t : State} (hv : s.fault.valid = false)
    (hl : readByte a s = .raised f t) : exec (.rdw a) s = .next (t.takeFault f) := by
  simp only [exec_running hv, bodyOf, readWord, hl, Access.andThen_raised, Access.as_raised, Access.finish_raised]

theorem exec_rdw_high_raised {a : Addr} {low : Byte} {f : FaultInfo} {s t u : State} (hv : s.fault.valid = false)
    (hl : readByte a s = .done low t) (hh : readByte (nextAddr a) t = .raised f u) :
    exec (.rdw a) s = .next (u.takeFault f) := by
  simp only [exec_running hv, bodyOf, readWord, hl, hh, Access.andThen_done, Access.andThen_raised, Access.as_raised,
    Access.finish_raised]

theorem exec_rdw_done {a : Addr} {low high : Byte} {s t u : State} (hv : s.fault.valid = false)
    (hl : readByte a s = .done low t) (hh : readByte (nextAddr a) t = .done high u) :
    exec (.rdw a) s = .next (u.respond (.ok (.word (joinBytes high low)))) := by
  simp only [exec_running hv, bodyOf, readWord, hl, hh, Access.andThen_done, Access.as_done, Access.finish_done]

theorem readByte_done_bodyReaches {a : Addr} {v : Byte} {s t : State} (h : readByte a s = .done v t) :
    s.BodyReaches t := by
  obtain ⟨rfl, -⟩ | ⟨e, -, rfl⟩ := readByte_done h
  · exact .of_no_event rfl rfl rfl
  · exact .afterEvent s e

/-- From the next state of `RDB` on a running block, how its byte read ended. -/
theorem exec_rdb_next {a : Addr} {s t : State} (hv : s.fault.valid = false) (h : exec (.rdb a) s = .next t) :
    (∃ f, readByte a s = .raised f s ∧ t = s.takeFault f) ∨
    (∃ v u, readByte a s = .done v u ∧ s.BodyReaches u ∧ t = u.respond (.ok (.byte v))) := by
  cases hr : readByte a s with
  | raised f u =>
    obtain ⟨rfl, -, -⟩ := readByte_raised hr
    exact .inl ⟨f, rfl, Host.Outcome.next.inj (h.symm.trans (exec_rdb_raised hv hr))⟩
  | done v u =>
    exact .inr ⟨v, u, rfl, readByte_done_bodyReaches hr, Host.Outcome.next.inj (h.symm.trans (exec_rdb_done hv hr))⟩

theorem nextAddr_eq_ofNat (a : Addr) : nextAddr a = BitVec.ofNat 16 ((a.toNat + 1) % 0x10000) := by
  rw [← nextAddr_toNat, BitVec.ofNat_toNat, BitVec.setWidth_eq]

theorem State.respond_with_outcomes (s : State) (r : Result) (rs : List Result) :
    { s.respond r with outcomes := rs } = { s with outcomes := rs } := rfl

/-- Settles O21, by how each of the two byte reads ended. A read that ended with a value recorded no fault and
returned no outcome of its own, so the high byte is read from the very state the low read left. -/
theorem readWordIsTwoByteReads : Obligations.ReadWordIsTwoByteReads := by
  unfold Obligations.ReadWordIsTwoByteReads
  intro a s t hv h
  obtain ⟨f, hl, rfl⟩ | ⟨low, t, hl, ht, rfl⟩ := exec_rdb_next hv h
  · refine ⟨fun _ => exec_rdw_low_raised hv hl, fun low u ho => ?_⟩
    simp at ho
  · refine ⟨fun hf => by simp [ht.fault, hv] at hf, fun low' u ho hu => ?_⟩
    obtain rfl : low = low' := by simpa [ht.outcomes] using ho
    rw [← nextAddr_eq_ofNat, State.respond_with_outcomes, ← ht.outcomes] at hu
    obtain ⟨f, hh, rfl⟩ | ⟨high, u, hh, hu', rfl⟩ := exec_rdb_next (ht.fault ▸ hv) hu
    · refine ⟨fun _ => exec_rdw_high_raised hv hl hh, fun high ho => ?_⟩
      simp [ht.outcomes] at ho
    · refine ⟨fun hf => by simp [hu'.fault, ht.fault, hv] at hf, fun high' ho => ?_⟩
      obtain rfl : high = high' := by simpa [hu'.outcomes, ht.outcomes] using ho
      rw [exec_rdw_done hv hl hh, ← ht.outcomes, ← hu'.outcomes]
      rfl

/-! ## The word read across boundaries -/

/-- Two delegated accesses in order: two events, and nothing else but the environment's inputs. -/
theorem State.afterEvent_afterEvent (s : State) (e e' : Event) :
    (s.afterEvent e).afterEvent e' = { s with
      events := s.events ++ [e, e']
      env := ((s.afterEvent e).afterEvent e').env
      draws := ((s.afterEvent e).afterEvent e').draws } := by
  simp [State.afterEvent, State.emit, State.passMoment]

/-- The next address names the next register, which wraps at 8 inside the window (41_router_ops.md R73). -/
theorem ppuReg_nextAddr (a : Addr) : ppuReg (nextAddr a) = ppuReg a + 1 := by
  apply BitVec.eq_of_toNat_eq
  simp only [ppuReg_eq_extractLsb', BitVec.extractLsb'_toNat, BitVec.toNat_add, nextAddr_toNat,
    Nat.shiftRight_zero, BitVec.ofNat_eq_ofNat, BitVec.toNat_ofNat]
  omega

theorem exec_rdw_ram_ppu {s : State} (hv : s.fault.valid = false) (hp : s.availPpu = true) :
    exec (.rdw 0x1FFF#16) s = .next ((s.afterEvent (.ppuRead 0)).respond
      (.ok (.word (s.ppuAnswer 0 ++ s.ram.read 0x7FF)))) := by
  rw [← joinBytes_eq]
  exact exec_rdw_done hv (readByte_ram (by decide) s) (readByte_ppu (a := 0x2000#16) hp (by decide) (by decide))

/-- The second byte access meets the environment's next moment (00_scope.md R8). -/
theorem exec_rdw_ppu {a : Addr} {s : State} (hv : s.fault.valid = false) (lo : 0x2000 ≤ a.toNat)
    (hi : a.toNat < 0x3FFF) (hp : s.availPpu = true) (hp' : s.passMoment.availPpu = true) :
    exec (.rdw a) s =
      .next (((s.afterEvent (.ppuRead (ppuReg a))).afterEvent (.ppuRead (ppuReg a + 1))).respond
        (.ok (.word (s.passMoment.ppuAnswer (ppuReg a + 1) ++ s.ppuAnswer (ppuReg a))))) := by
  have hn := nextAddr_toNat a
  rw [← joinBytes_eq, ← ppuReg_nextAddr]
  exact exec_rdw_done hv (readByte_ppu hp lo hi.le) (readByte_ppu hp' (by omega) (by omega))

theorem exec_rdw_ppu_unimplemented {s : State} (hv : s.fault.valid = false) (hp : s.availPpu = true) :
    exec (.rdw 0x3FFF#16) s = .next ((s.afterEvent (.ppuRead 7)).takeFault (unimplementedRegion 0x4000#16)) :=
  exec_rdw_high_raised hv (readByte_ppu hp (by decide) (by decide))
    (readByte_unimplemented (a := 0x4000#16) (by decide) (by decide) _)

/-- As in the register window, the second access meets the next moment. -/
theorem exec_rdw_mapper {a : Addr} {s : State} (hv : s.fault.valid = false) (lo : 0x4020 ≤ a.toNat)
    (hi : a.toNat ≤ 0xFFFD) (hp : s.availMap = true) (hp' : s.passMoment.availMap = true) :
    exec (.rdw a) s = .next (((s.afterEvent (.mapRead a)).afterEvent (.mapRead (a + 1))).respond
      (.ok (.word (s.passMoment.mapAnswer (a + 1) ++ s.mapAnswer a)))) := by
  have hn := nextAddr_toNat a
  rw [← joinBytes_eq]
  exact exec_rdw_done hv (readByte_mapper hp lo (by omega)) (readByte_mapper hp' (by omega) (by omega))

theorem exec_rdw_mapper_invalid {s : State} (hv : s.fault.valid = false) (hp : s.availMap = true) :
    exec (.rdw 0xFFFE#16) s =
      .next ((s.afterEvent (.mapRead 0xFFFE#16)).takeFault (invalidAddress 0xFFFF#16)) :=
  exec_rdw_high_raised hv (readByte_mapper hp (by decide) (by decide)) (readByte_invalid _)

/-- Settles O22, row by row: the class of each of the two bytes gives the row its two byte reads. -/
theorem readWordBoundaryCases : Obligations.ReadWordBoundaryCases := by
  unfold Obligations.ReadWordBoundaryCases
  intro a s hv
  refine ⟨fun h => ?_, ?_, fun lo hi hp hp' => ?_, ?_,
    fun lo hi => exec_rdw_low_raised hv (readByte_unimplemented lo hi s), fun lo hi hp hp' => ?_, ?_, ?_⟩
  · have hn : storeIndex (nextAddr a) = (a.toNat + 1) % 0x800 := by
      rw [storeIndex_eq_mod, nextAddr_toNat]
      omega
    rw [← hn]
    exact exec_rdw_ram hv h
  · rintro rfl hp
    exact ⟨_, exec_rdw_ram_ppu hv hp, rfl⟩
  · rw [← ppuReg_eq_extractLsb']
    refine ⟨_, exec_rdw_ppu hv lo hi hp hp', ?_⟩
    rw [State.afterEvent_afterEvent]
    rfl
  · rintro rfl hp
    exact ⟨_, exec_rdw_ppu_unimplemented hv hp, rfl⟩
  · refine ⟨_, exec_rdw_mapper hv lo hi hp hp', ?_⟩
    rw [State.afterEvent_afterEvent]
    rfl
  · rintro rfl hp
    exact ⟨_, exec_rdw_mapper_invalid hv hp, rfl⟩
  · rintro rfl
    exact exec_rdw_low_raised hv (readByte_invalid s)

end Sys2Proof.Machine
end

section
/-! The peripheral's operations (42_peripheral_ops.md): a strobe write (R77), a read (R78) and the bit stream it
makes (R81), a press and a release (R79, R80) and when a read sees them (R82). -/

namespace Sys2Proof.Machine

/-! ## The next state of each operation -/

theorem exec_stb {on : Bool} {s : State} (hv : s.fault.valid = false) :
    exec (.stb on) s =
      .next (((s.setStrobe on).setCursor (cursorAfterStrobe on s.cursor)).respond (.ok .absent)) :=
  exec_running hv

theorem exec_rds {s : State} (hv : s.fault.valid = false) :
    exec .rds s = .next ((s.setCursor (cursorAfterRead s.strobe s.cursor)).respond
      (.ok (.bit (snapshotBit s.snapshot s.cursor)))) :=
  exec_running hv

theorem exec_prs {index : Nat} {s : State} (hv : s.fault.valid = false) (hi : index ≤ 7) :
    exec (.prs index) s =
      .next ((s.setSnapshot (snapshotPressed s.snapshot index)).respond (.ok .absent)) := by
  simp only [exec_running hv, bodyOf, press, checkButton_legal (Nat.lt_succ_of_le hi), Access.andThen_done,
    Access.finish_done]

theorem exec_rls {index : Nat} {s : State} (hv : s.fault.valid = false) (hi : index ≤ 7) :
    exec (.rls index) s =
      .next ((s.setSnapshot (snapshotReleased s.snapshot index)).respond (.ok .absent)) := by
  simp only [exec_running hv, bodyOf, release, checkButton_legal (Nat.lt_succ_of_le hi), Access.andThen_done,
    Access.finish_done]

/-- A press and a release share the index check (60_exceptions.md R94), whatever the size of the index. -/
theorem exec_button_illegal {index : Nat} {s : State} (hv : s.fault.valid = false) (hi : 7 < index) {i : Instr}
    (h : i ∈ [Instr.prs index, .rls index]) :
    exec i s = .next (s.takeFault ⟨.buttonIndex, BitVec.ofNat 16 index, .none⟩) := by
  have hc := checkButton_illegal hi s
  simp only [List.mem_cons, List.not_mem_nil, or_false] at h
  obtain rfl | rfl := h
  · simp only [exec_running hv, bodyOf, press, hc, Access.andThen_raised, Access.finish_raised]
  · simp only [exec_running hv, bodyOf, release, hc, Access.andThen_raised, Access.finish_raised]

/-! ## A press and a release -/

/-- Settles O30, by the bits of the pressed snapshot and the fault of the index check. -/
theorem pressSetsOneBit : Obligations.PressSetsOneBit := by
  unfold Obligations.PressSetsOneBit
  intro index s hv
  exact ⟨fun hi => ⟨_, exec_prs hv hi, fun _ hj => snapshotPressed_getLsbD hj, rfl⟩,
    fun hi _ => exec_button_illegal hv hi (by simp)⟩

/-- Settles O31, by the bits of the released snapshot and the fault of the index check. -/
theorem releaseClearsOneBit : Obligations.ReleaseClearsOneBit := by
  unfold Obligations.ReleaseClearsOneBit
  intro index s hv
  exact ⟨fun hi => ⟨_, exec_rls hv hi, fun _ hj => snapshotReleased_getLsbD hj, rfl⟩,
    fun hi _ => exec_button_illegal hv hi (by simp)⟩

/-! ## A strobe write and a read -/

/-- Settles O28, by the level written. -/
theorem strobeWriteSetsLatch : Obligations.StrobeWriteSetsLatch := by
  unfold Obligations.StrobeWriteSetsLatch
  intro on s hv
  exact exec_stb hv

/-- Settles O29, by the bit law at the cursor. -/
theorem readReturnsBitAndAdvances : Obligations.ReadReturnsBitAndAdvances := by
  unfold Obligations.ReadReturnsBitAndAdvances
  intro s hv
  rw [exec_rds hv, snapshotBit_eq]
  rfl

/-! ## When a read sees a button change -/

/-- A snapshot changed in one bit, seen by the bit law. -/
theorem snapshotBit_of_bit_changed {index : Nat} {b : Bool} {v w : Byte} (hi : index ≤ 7)
    (h : ∀ j, j < 8 → w.getLsbD j = if j = index then b else v.getLsbD j) (c : BitVec 4) :
    snapshotBit w c = if c.toNat = index then BitVec.ofBool b else snapshotBit v c := by
  rw [snapshotBit_eq, snapshotBit_eq]
  rcases Nat.lt_or_ge c.toNat 8 with hc | hc
  · rw [if_pos hc, if_pos hc, h _ hc, apply_ite BitVec.ofBool]
  · rw [if_neg (by omega), if_neg (by omega), if_neg (by omega)]

theorem snapshotBit_snapshotPressed {index : Nat} (hi : index ≤ 7) (v : Byte) (c : BitVec 4) :
    snapshotBit (snapshotPressed v index) c = if c.toNat = index then 1#1 else snapshotBit v c := by
  refine snapshotBit_of_bit_changed (b := true) hi (fun j hj => ?_) c
  rw [snapshotPressed_getLsbD hj]
  by_cases h : j = index <;> simp [h]

theorem snapshotBit_snapshotReleased {index : Nat} (hi : index ≤ 7) (v : Byte) (c : BitVec 4) :
    snapshotBit (snapshotReleased v index) c = if c.toNat = index then 0#1 else snapshotBit v c := by
  refine snapshotBit_of_bit_changed (b := false) hi (fun j hj => ?_) c
  rw [snapshotReleased_getLsbD hj]
  by_cases h : j = index <;> simp [h]

/-- There is one snapshot, and a read takes its bit from it directly (R82): after an operation that only writes
the snapshot, the next read returns the new snapshot's bit at the old cursor. -/
theorem rds_after_setSnapshot {i : Instr} {s : State} {v : Byte} (hv : s.fault.valid = false)
    (h : exec i s = .next ((s.setSnapshot v).respond (.ok .absent))) :
    ∃ t u, exec i s = .next t ∧ exec .rds t = .next u ∧ t.cursor = s.cursor ∧
      u.outcomes = s.outcomes ++ [.ok .absent, .ok (.bit (snapshotBit v s.cursor))] :=
  ⟨_, _, h, exec_rds hv, rfl, by simp⟩

/-- Settles O33, by the bit law of the changed snapshot. -/
theorem buttonChangeIsSeenAtOnce : Obligations.ButtonChangeIsSeenAtOnce := by
  unfold Obligations.ButtonChangeIsSeenAtOnce
  intro index s hv hi
  rw [← snapshotBit_snapshotPressed hi, ← snapshotBit_snapshotReleased hi]
  exact ⟨rds_after_setSnapshot hv (exec_prs hv hi), rds_after_setSnapshot hv (exec_rls hv hi)⟩

/-! ## The bit stream -/

/-- Bit `k` of the stream the reads of a snapshot return (R81), `k` counted from 0 and unbounded. -/
def streamBit (v : Byte) (k : Nat) : BitVec 1 := if k < 8 then BitVec.ofBool (v.getLsbD k) else 0#1

theorem snapshotBit_eq_streamBit (v : Byte) (c : BitVec 4) : snapshotBit v c = streamBit v c.toNat :=
  snapshotBit_eq v c

/-- Stopping the cursor at 8 loses nothing: the stream is 0 from there on. -/
theorem streamBit_cursorAdvanced (v : Byte) (c : BitVec 4) (k : Nat) :
    streamBit v ((cursorAdvanced c).toNat + k) = streamBit v (c.toNat + (k + 1)) := by
  rw [cursorAdvanced_toNat]
  rcases Nat.lt_or_ge c.toNat 8 with hc | hc
  · rw [show min (c.toNat + 1) 8 + k = c.toNat + (k + 1) by omega]
  · simp [streamBit, show ¬ c.toNat + (k + 1) < 8 by omega, show min (c.toNat + 1) 8 = 8 by omega]

theorem execAll_cons {i : Instr} {is : List Instr} {s t : State} (h : exec i s = .next t) :
    execAll (i :: is) s = execAll is t := by
  rw [execAll, h]

/-- With the strobe low, reads return the stream from the cursor on. -/
theorem execAll_rds_low (n : Nat) : ∀ {s : State}, s.fault.valid = false → s.strobe = false →
    ∃ t, execAll (List.replicate n .rds) s = .next t ∧
      t.outcomes = s.outcomes ++
        (List.range n).map fun k => .ok (.bit (streamBit s.snapshot (s.cursor.toNat + k))) := by
  induction n with
  | zero => exact fun {s} _ _ => ⟨s, rfl, by simp⟩
  | succ n ih =>
    intro s hv hs
    obtain ⟨t, ht, ho⟩ := ih (s := (s.setCursor (cursorAfterRead s.strobe s.cursor)).respond
      (.ok (.bit (snapshotBit s.snapshot s.cursor)))) hv hs
    refine ⟨t, (execAll_cons (exec_rds hv)).trans ht, ?_⟩
    simp [ho, hs, List.range_succ_eq_map, streamBit_cursorAdvanced, snapshotBit_eq_streamBit]

/-- The stream from a low strobe and a cursor at 0 is the whole stream. -/
theorem execAll_rds_from_zero (n : Nat) {s : State} (hv : s.fault.valid = false) (hs : s.strobe = false)
    (hc : s.cursor = 0) :
    ∃ t, execAll (List.replicate n .rds) s = .next t ∧
      t.outcomes = s.outcomes ++ (List.range n).map fun k => .ok (.bit (streamBit s.snapshot k)) := by
  simpa [hc] using execAll_rds_low n hv hs

/-- A strobe pulse leaves the strobe low and the cursor at 0. -/
theorem execAll_stb_pulse {is : List Instr} {s : State} (hv : s.fault.valid = false) :
    execAll (.stb true :: .stb false :: is) s = execAll is { s with
      strobe := false, cursor := 0, outcomes := s.outcomes ++ [.ok .absent] ++ [.ok .absent] } := by
  rw [execAll_cons (exec_stb hv)]
  exact execAll_cons (exec_stb hv)

/-- With the strobe high and the cursor at 0, a read moves nothing. -/
theorem exec_rds_pinned {s : State} (hv : s.fault.valid = false) (hs : s.strobe = true) (hc : s.cursor = 0) :
    exec .rds s = .next (s.respond (.ok (.bit (BitVec.ofBool (s.snapshot.getLsbD 0))))) := by
  have hset : s.setCursor 0 = s := by rw [← hc]; rfl
  rw [exec_rds hv, snapshotBit_eq, hs, cursorAfterRead_true, hset, hc]
  rfl

theorem execAll_rds_high (n : Nat) : ∀ {s : State}, s.fault.valid = false → s.strobe = true → s.cursor = 0 →
    execAll (List.replicate n .rds) s = .next { s with
      outcomes := s.outcomes ++ List.replicate n (.ok (.bit (BitVec.ofBool (s.snapshot.getLsbD 0)))) } := by
  induction n with
  | zero => exact fun {s} _ _ _ => by simp [execAll]
  | succ n ih =>
    intro s hv hs hc
    rw [List.replicate_succ, execAll_cons (exec_rds_pinned hv hs hc), ih (s := s.respond _) hv hs hc]
    simp [State.respond, List.replicate_succ]

/-- Settles O32: the stream from cursor 0 where the strobe is low, which a strobe pulse leaves, and the same bit at
every read where it is high. -/
theorem bitStreamAfterStrobe : Obligations.BitStreamAfterStrobe := by
  unfold Obligations.BitStreamAfterStrobe
  refine ⟨fun n s hv => ?_, fun n s hv hs hc => execAll_rds_from_zero n hv hs hc,
    fun n s hv hs hp => execAll_rds_high n hv hs (hp hs)⟩
  rw [execAll_stb_pulse hv, List.append_assoc]
  exact execAll_rds_from_zero n hv rfl rfl

end Sys2Proof.Machine
end

section
/-! The component ports (43_component_ports.md): a reference that does not resolve (R87), and the processor
reference, which no operation reads (R88). Both speak of a change of the state that an operation does not see. -/

namespace Sys2Proof.Machine

/-! ## Changes of the state that an access does not see -/

/-- The same end with the state it carries changed by `g`. -/
def Access.mapState {α : Type} (g : State → State) : Access α → Access α
  | .done v s => .done v (g s)
  | .raised f s => .raised f (g s)

/-- `x` does not see the change `g`: made before `x` or after it, the end is the same. -/
def Commutes {α : Type} (g : State → State) (x : State → Access α) : Prop :=
  ∀ s, x (g s) = (x s).mapState g

theorem Commutes.andThen {α β : Type} {g : State → State} {x : State → Access α} {k : α → State → Access β}
    (hx : Commutes g x) (hk : ∀ v, Commutes g (k v)) : Commutes g fun s => (x s).andThen k := by
  intro s
  simp only [hx s]
  cases x s with
  | done v t => exact hk v t
  | raised f t => rfl

theorem Commutes.as {α : Type} {g : State → State} {x : State → Access α} (hx : Commutes g x) (form : α → Value) :
    Commutes g fun s => (x s).as form :=
  hx.andThen fun _ _ => rfl

/-- The change `g` is of no field that ending an operation reads or writes. -/
structure KeepsEnding (g : State → State) : Prop where
  halted : ∀ s, (g s).halted = s.halted
  respond : ∀ s r, g (s.respond r) = (g s).respond r
  takeFault : ∀ s f, g (s.takeFault f) = (g s).takeFault f

theorem KeepsEnding.finish {g : State → State} (hg : KeepsEnding g) (x : Access Value) :
    (x.mapState g).finish = g x.finish := by
  cases x with
  | done v s => exact (hg.respond s _).symm
  | raised f s => exact (hg.takeFault s f).symm

/-- An operation does not see a change that its body does not see. -/
theorem exec_of_commutes {g : State → State} {i : Instr} {s t : State} (hg : KeepsEnding g)
    (hi : Commutes g (bodyOf i)) (h : exec i s = .next t) : exec i (g s) = .next (g t) := by
  rw [exec_eq_perform, perform] at h ⊢
  cases h
  rw [hg.halted, hi s, hg.finish, ← hg.respond, apply_ite g]

/-! ## A reference that does not resolve -/

/-- Every operation whose first byte access is at `a` ends in the fault that the access raises. -/
theorem exec_raised_at {a : Addr} {v : Byte} {f : FaultInfo} {s : State} (hv : s.fault.valid = false)
    (hr : readByte a s = .raised f s) (hw : writeByte a v s = .raised f s) :
    ∀ i ∈ [Instr.rdb a, .wrb a v, .rdw a], exec i s = .next (s.takeFault f) := by
  simp [exec_rdb_raised hv hr, exec_wrb_raised hv hw, exec_rdw_low_raised hv hr]

/-- The high byte of a word read meets the environment's next moment, and with it a line gone low. -/
theorem exec_rdw_ppu_gone {a : Addr} {s : State} (hv : s.fault.valid = false) (lo : 0x2000 ≤ a.toNat)
    (hi : a.toNat < 0x3FFF) (hp : s.availPpu = true) (hp' : s.passMoment.availPpu = false) :
    exec (.rdw a) s = .next ((s.afterEvent (.ppuRead (ppuReg a))).takeFault ⟨.unresolvedReference, a + 1, .ppu⟩) := by
  have hn := nextAddr_toNat a
  exact exec_rdw_high_raised hv (readByte_ppu hp lo hi.le) (readByte_ppu_gone hp' (by omega) (by omega))

theorem exec_rdw_mapper_gone {a : Addr} {s : State} (hv : s.fault.valid = false) (lo : 0x4020 ≤ a.toNat)
    (hi : a.toNat < 0xFFFE) (hp : s.availMap = true) (hp' : s.passMoment.availMap = false) :
    exec (.rdw a) s = .next ((s.afterEvent (.mapRead a)).takeFault ⟨.unresolvedReference, a + 1, .mapper⟩) := by
  have hn := nextAddr_toNat a
  exact exec_rdw_high_raised hv (readByte_mapper hp lo hi.le) (readByte_mapper_gone hp' (by omega) (by omega))

/-! ## A byte that resolves nothing -/

/-- The state with another environment to come. -/
def State.withEnv (env : List Moment) (s : State) : State := { s with env := env }

theorem State.withEnv_keepsEnding (env : List Moment) : KeepsEnding (State.withEnv env) :=
  ⟨fun _ => rfl, fun _ _ => rfl, fun _ _ => rfl⟩

theorem readByte_withEnv {a : Addr} (ha : a.toNat ≤ 0x1FFF ∨ a.fatal) (env : List Moment) :
    Commutes (State.withEnv env) (readByte a) := by
  intro s
  obtain h | ⟨lo, hi⟩ | rfl := ha
  · rw [readByte_ram h, readByte_ram h]; rfl
  · rw [readByte_unimplemented lo hi, readByte_unimplemented lo hi]; rfl
  · rw [readByte_invalid, readByte_invalid]; rfl

theorem writeByte_withEnv {a : Addr} (ha : a.toNat ≤ 0x1FFF ∨ a.fatal) (v : Byte) (env : List Moment) :
    Commutes (State.withEnv env) (writeByte a v) := by
  intro s
  obtain h | ⟨lo, hi⟩ | rfl := ha
  · rw [writeByte_ram h, writeByte_ram h]; rfl
  · rw [writeByte_unimplemented lo hi, writeByte_unimplemented lo hi]; rfl
  · rw [writeByte_invalid, writeByte_invalid]; rfl

/-- Settles O23: the byte access that meets the low line raises the fault, be it the operation's first or the high
byte of a word read, and a byte of another class sees no change of the environment. -/
theorem unresolvedReferenceHalts : Obligations.UnresolvedReferenceHalts := by
  unfold Obligations.UnresolvedReferenceHalts
  intro a v s hv
  refine ⟨fun lo hi hp => exec_raised_at hv (readByte_ppu_gone hp lo hi) (writeByte_ppu_gone hp lo hi v),
    fun lo hi hp => exec_raised_at hv (readByte_mapper_gone hp lo hi) (writeByte_mapper_gone hp lo hi v), ?_,
    fun lo hi hp hp' => ?_, fun lo hi hp hp' => ⟨_, exec_rdw_mapper_gone hv lo hi hp hp', rfl⟩,
    fun ha env t i hi h => ?_⟩
  · rintro rfl hp
    exact exec_rdw_high_raised (a := 0x1FFF#16) hv (readByte_ram (by decide) s)
      (readByte_ppu_gone (a := 0x2000#16) hp (by decide) (by decide))
  · rw [← ppuReg_eq_extractLsb']
    exact ⟨_, exec_rdw_ppu_gone hv lo hi hp hp', rfl⟩
  · have hb : Commutes (State.withEnv env) (bodyOf i) := by
      simp only [List.mem_cons, List.not_mem_nil, or_false] at hi
      obtain rfl | rfl := hi
      · exact (readByte_withEnv ha env).as .byte
      · exact (writeByte_withEnv ha v env).as fun _ => .absent
    exact exec_of_commutes (State.withEnv_keepsEnding env) hb h

/-! ## The processor reference -/

/-- The state with `ref_cpu` bound to `c`. -/
def State.withCpu (c : Component) (s : State) : State := { s with refs := { s.refs with cpu := c } }

theorem State.withCpu_keepsEnding (c : Component) : KeepsEnding (State.withCpu c) :=
  ⟨fun _ => rfl, fun _ _ => rfl, fun _ _ => rfl⟩

theorem storeRead_withCpu (c : Component) (index : Nat) : Commutes (State.withCpu c) (storeRead index) := by
  intro s
  unfold storeRead
  split <;> rfl

theorem storeWrite_withCpu (c : Component) (index : Nat) (v : Byte) :
    Commutes (State.withCpu c) (storeWrite index v) := by
  intro s
  unfold storeWrite
  split <;> rfl

theorem checkButton_withCpu (c : Component) (index : Nat) : Commutes (State.withCpu c) (checkButton index) := by
  intro s
  unfold checkButton
  split <;> rfl

/-- Resolution samples the availability line, not the binding (R87). -/
theorem resolvePpu_withCpu (c : Component) (a : Addr) : Commutes (State.withCpu c) (resolvePpu a) := by
  intro s
  have hline : (s.withCpu c).availPpu = s.availPpu := rfl
  unfold resolvePpu
  rw [hline]
  split <;> rfl

theorem resolveMapper_withCpu (c : Component) (a : Addr) : Commutes (State.withCpu c) (resolveMapper a) := by
  intro s
  have hline : (s.withCpu c).availMap = s.availMap := rfl
  unfold resolveMapper
  rw [hline]
  split <;> rfl

theorem readByte_withCpu (c : Component) (a : Addr) : Commutes (State.withCpu c) (readByte a) := by
  intro s
  cases hc : classify a <;> simp only [readByte, hc]
  case ram => exact storeRead_withCpu c _ s
  case ppu => exact (resolvePpu_withCpu c a).andThen (fun _ _ => rfl) s
  case mapper => exact (resolveMapper_withCpu c a).andThen (fun _ _ => rfl) s
  case apuio | test | invalid => rfl

theorem writeByte_withCpu (c : Component) (a : Addr) (v : Byte) : Commutes (State.withCpu c) (writeByte a v) := by
  intro s
  cases hc : classify a <;> simp only [writeByte, hc]
  case ram => exact storeWrite_withCpu c _ v s
  case ppu => exact (resolvePpu_withCpu c a).andThen (fun _ _ => rfl) s
  case mapper => exact (resolveMapper_withCpu c a).andThen (fun _ _ => rfl) s
  case apuio | test | invalid => rfl

theorem bodyOf_withCpu (c : Component) (i : Instr) : Commutes (State.withCpu c) (bodyOf i) := by
  cases i with
  | rdb a => exact (readByte_withCpu c a).as .byte
  | wrb a v => exact (writeByte_withCpu c a v).as fun _ => .absent
  | rdw a =>
    have hword : Commutes (State.withCpu c) (readWord a) :=
      (readByte_withCpu c a).andThen fun _ => (readByte_withCpu c (nextAddr a)).andThen fun _ _ => rfl
    exact hword.as .word
  | stb on | rds => exact fun _ => rfl
  | prs index | rls index => exact (checkButton_withCpu c index).andThen fun _ _ => rfl

/-- Settles O47: no body sees the binding of `ref_cpu`. -/
theorem processorReferenceIsNeverRead : Obligations.ProcessorReferenceIsNeverRead := by
  unfold Obligations.ProcessorReferenceIsNeverRead
  exact fun i _ _ c h => exec_of_commutes (State.withCpu_keepsEnding c) (bodyOf_withCpu c i) h

end Sys2Proof.Machine
end

section
/-! The exceptions (60_exceptions.md): what taking a fault records and leaves (R96), the state a faulting operation
leaves (R97), and the halted block, which refuses everything (R98). -/

namespace Sys2Proof.Machine

/-! ## The halted block -/

theorem exec_halted (i : Instr) {s : State} (h : s.fault.valid = true) : exec i s = .next (s.respond .refused) := by
  rw [exec_eq_perform, perform_halted h]

theorem step_halted {s : State} {w : CommandWord} {rest : List CommandWord} (hv : s.fault.valid = true)
    (hc : s.commands = w :: rest) : step s = .next ((s.setCommands rest).respond .refused) := by
  cases hd : decode w with
  | invalid why => exact step_of_instr?_none hc (by rw [hd, Decoded.instr?_invalid])
  | spells i =>
    have he := exec_halted i (s := s.setCommands rest) hv
    simp only [step, fetch_cons hc, hd, he]

/-- Settles O36: a halted block refuses the operation before its body runs, and a word that spells nothing is
refused in any state. -/
theorem haltedBlockRefusesEverything : Obligations.HaltedBlockRefusesEverything := by
  unfold Obligations.HaltedBlockRefusesEverything
  exact ⟨fun i _ hv => exec_halted i hv, fun _ _ _ hv hc => step_halted hv hc⟩

/-! ## Fault entry -/

/-- From `s` to `t` the operation `i` took the fault `f` (R96): the record and the outcome are the fault's, the
store, the peripheral and the references are kept, and outside a word read nothing else changed (R97). -/
structure State.FaultEntry (s : State) (i : Instr) (f : FaultInfo) (t : State) : Prop where
  fault : t.fault = f.record
  outcomes : t.outcomes = s.outcomes ++ [.fault f]
  ram : t.ram = s.ram
  snapshot : t.snapshot = s.snapshot
  cursor : t.cursor = s.cursor
  strobe : t.strobe = s.strobe
  refs : t.refs = s.refs
  whole : (∀ a, i ≠ .rdw a) → t = s.takeFault f

theorem State.FaultEntry.takeFault (s : State) (i : Instr) (f : FaultInfo) : s.FaultEntry i f (s.takeFault f) :=
  ⟨rfl, rfl, rfl, rfl, rfl, rfl, rfl, fun _ => rfl⟩

/-- A word read whose high byte faulted has made the low byte's delegated access. -/
theorem State.FaultEntry.afterEvent (s : State) (a : Addr) (e : Event) (f : FaultInfo) :
    s.FaultEntry (.rdw a) f ((s.afterEvent e).takeFault f) :=
  ⟨rfl, rfl, rfl, rfl, rfl, rfl, rfl, fun h => absurd rfl (h a)⟩

theorem State.FaultEntry.valid {s t : State} {i : Instr} {f : FaultInfo} (h : s.FaultEntry i f t) :
    t.fault.valid = true := by
  rw [h.fault, FaultInfo.record_valid]

/-- An operation of a running block ends with a value and the fault record as it was, or takes a fault. -/
theorem exec_next_of_running {i : Instr} {s t : State} (hs : s.fault.valid = false) (h : exec i s = .next t) :
    (t.fault = s.fault ∧ ∃ v, t.outcomes = s.outcomes ++ [.ok v]) ∨ ∃ f, s.FaultEntry i f t := by
  obtain ⟨hv, -⟩ | ⟨-, u, v, hu, rfl⟩ | ⟨-, u, f, rfl | ⟨a, e, rfl, rfl⟩, rfl⟩ := exec_next_cases h
  · simp [hs] at hv
  · have hr := hu.bodyReaches
    exact .inl ⟨hr.fault, v, by rw [State.respond_outcomes, hr.outcomes]⟩
  · exact .inr ⟨f, .takeFault u i f⟩
  · exact .inr ⟨f, .afterEvent s a e f⟩

/-- Settles O34, by the two ways an operation of a running block ends; after a fault entry the block is halted. -/
theorem faultEntryRecordsAndHalts : Obligations.FaultEntryRecordsAndHalts := by
  unfold Obligations.FaultEntryRecordsAndHalts
  intro i s t hs h
  obtain ⟨hf, v, ho⟩ | ⟨f, hf⟩ := exec_next_of_running hs h
  · exact ⟨by simp [hf, hs, ho], fun f ho' => by simp [ho] at ho', fun _ => hf⟩
  · refine ⟨iff_of_true hf.valid ⟨f, hf.outcomes⟩, fun f' ho => ?_, fun hv => by simp [hf.valid] at hv⟩
    obtain rfl : f = f' := by simpa [hf.outcomes] using ho
    exact ⟨hf.fault, ⟨hf.ram, hf.snapshot, hf.cursor, hf.strobe, hf.refs⟩, fun j => exec_halted j hf.valid⟩

/-! ## The state a faulting operation leaves -/

theorem exec_faultEntry {i : Instr} {s t : State} (hs : s.fault.valid = false) (h : exec i s = .next t)
    (ht : t.fault.valid = true) : ∃ f, s.FaultEntry i f t := by
  obtain ⟨hf, -⟩ | hf := exec_next_of_running hs h
  · simp [hf, hs] at ht
  · exact hf

/-- A word read that faulted keeps what the read of its low byte did (R97): nothing where the low byte itself
faulted, since the byte read alone then takes the same fault. -/
theorem exec_rdw_faulting {a : Addr} {s t u : State} (hs : s.fault.valid = false) (h : exec (.rdw a) s = .next t)
    (ht : t.fault.valid = true) (hu : exec (.rdb a) s = .next u) :
    t = { u with fault := t.fault, outcomes := t.outcomes } := by
  obtain ⟨f, hl, rfl⟩ | ⟨low, u, hl, hr, rfl⟩ := exec_rdb_next hs hu
  · obtain rfl := Host.Outcome.next.inj (h.symm.trans (exec_rdw_low_raised hs hl))
    rfl
  · cases hh : readByte (nextAddr a) u with
    | raised f w =>
      obtain ⟨rfl, -, -⟩ := readByte_raised hh
      obtain rfl := Host.Outcome.next.inj (h.symm.trans (exec_rdw_high_raised hs hl hh))
      rfl
    | done high w =>
      obtain rfl := Host.Outcome.next.inj (h.symm.trans (exec_rdw_done hs hl hh))
      have hr' := readByte_done_bodyReaches hh
      simp [hr'.fault, hr.fault, hs] at ht

/-- Settles O35, by fault entry for every operation and by the two byte reads of a word read. -/
theorem faultIsPrecise : Obligations.FaultIsPrecise := by
  unfold Obligations.FaultIsPrecise
  intro i s t hs h ht
  obtain ⟨f, hf⟩ := exec_faultEntry hs h ht
  refine ⟨⟨hf.ram, hf.snapshot, hf.cursor, hf.strobe⟩, fun hi => ?_, fun a u hi hu => ?_⟩
  · obtain rfl := hf.whole hi
    rfl
  · subst hi
    exact exec_rdw_faulting hs h ht hu

end Sys2Proof.Machine
end

section
/-! A recorded fault is for good (70_reset_and_hazards.md R121): what a step, and a run of any length, leaves of a
halted state. -/

namespace Sys2Proof.Machine

/-- A step from a halted state took the next word and refused it. -/
theorem step_next_of_halted {s u : State} (hv : s.fault.valid = true) (h : step s = .next u) :
    u = (s.setCommands s.commands.tail).respond .refused := by
  cases hc : s.commands with
  | nil =>
    rw [step, fetch_nil hc] at h
    cases h
  | cons w rest => exact Host.Outcome.next.inj (h.symm.trans (step_halted hv hc))

/-- A run of `k` steps from a halted state took `k` words and refused each; the rest of the state is as it was. -/
theorem run_next_of_halted {k : Nat} {s t : State} (hv : s.fault.valid = true)
    (h : Host.Core.run Sys2Proof.core k s = .next t) :
    t = { s with
      commands := s.commands.drop k, outcomes := s.outcomes ++ List.replicate k .refused } := by
  induction k generalizing s with
  | zero =>
    obtain rfl : s = t := Host.Outcome.next.inj h
    simp
  | succ k ih =>
    obtain ⟨u, hs, hr⟩ := run_of_succ h
    obtain rfl := step_next_of_halted hv hs
    rw [ih (by simpa using hv) hr]
    simp [State.respond, State.setCommands, List.replicate_succ]

/-- Settles O37, by induction on the number of steps: each refuses its word and leaves the block halted. -/
theorem faultIsForGood : Obligations.FaultIsForGood := by
  unfold Obligations.FaultIsForGood
  intro k s t hv h
  obtain rfl := run_next_of_halted hv h
  exact ⟨⟨rfl, rfl, rfl, rfl, rfl, rfl⟩, rfl, rfl⟩

end Sys2Proof.Machine
end

section
/-! The command word both ways (30_encoding.md section 3): decoding an encoded operation, encoding a decoded one,
and the step that performs what the next word spells. -/

namespace Sys2Proof

/-! ## Encoding and decoding -/

/-- An index that fits the `data` field is read back from it (30_encoding.md R61). -/
theorem toNat_ofNat_of_indexFits {index : Nat} (h : indexFits index = true) : (BitVec.ofNat 8 index).toNat = index :=
  BitVec.toNat_ofNat index 8 ▸ Nat.mod_eq_of_lt (of_decide_eq_true h)

theorem spelledBy_encode {i : Instr} (h : i.wellFormed = true) : i.spelledBy (encode i) := by
  cases i with
  | rdb a | wrb a v | rdw a | rds => simp [Instr.spelledBy, encode]
  | stb on => cases on <;> simp +decide [Instr.spelledBy]
  | prs index | rls index => simp [Instr.spelledBy, encode, toNat_ofNat_of_indexFits h]

/-- Settles O7: the word of a well-formed operation bears the fields by which its row spells it. -/
theorem decodeAfterEncodeIsIdentity : Obligations.DecodeAfterEncodeIsIdentity := by
  unfold Obligations.DecodeAfterEncodeIsIdentity
  exact fun i h => decode_of_spelledBy (spelledBy_encode h)

/-- `data` of `STB` with bits 7:1 zero is the level (30_encoding.md R61). -/
theorem strobeData_eq {data : Byte} (h : data.extractLsb' 1 7 = 0#7) :
    (if data.getLsbD 0 then 0x01#8 else 0x00#8) = data := by
  revert data
  decide

theorem encode_eq_of_spelledBy {w : CommandWord} {i : Instr} (h : i.spelledBy w) : encode i = w := by
  rw [eq_iff_fields]
  cases i with
  | rdb a | rdw a =>
    obtain ⟨hop, hzero, hdata, rfl⟩ := h
    simp [encode, hop, hzero, hdata]
  | wrb a v =>
    obtain ⟨hop, hzero, rfl, rfl⟩ := h
    simp [encode, hop, hzero]
  | stb on =>
    obtain ⟨hop, hzero, haddr, hdata, rfl⟩ := h
    simp only [encode, opField_commandOf, zeroField_commandOf, addrField_commandOf, dataField_commandOf, hop, hzero,
      haddr, strobeData_eq hdata, and_self]
  | rds =>
    obtain ⟨hop, hzero, haddr, hdata⟩ := h
    simp [encode, hop, hzero, haddr, hdata]
  | prs index | rls index =>
    obtain ⟨hop, hzero, haddr, rfl⟩ := h
    simp [encode, hop, hzero, haddr]

theorem wellFormed_of_spelledBy {w : CommandWord} {i : Instr} (h : i.spelledBy w) : i.wellFormed = true := by
  cases i with
  | rdb a | wrb a v | rdw a | stb on | rds => rfl
  | prs index | rls index =>
    obtain ⟨-, -, -, rfl⟩ := h
    exact decide_eq_true (dataField w).isLt

/-- Settles O8: the fields by which a word spells an operation are those of the operation's own word. -/
theorem encodeAfterDecodeIsIdentity : Obligations.EncodeAfterDecodeIsIdentity := by
  unfold Obligations.EncodeAfterDecodeIsIdentity
  intro w i h
  have hs := spelledBy_of_decode h
  exact ⟨encode_eq_of_spelledBy hs, wellFormed_of_spelledBy hs⟩

/-- Settles O6: the seven words are those of well-formed operations, and the two others are reserved. -/
theorem sampleWordsDecode : Obligations.SampleWordsDecode := by
  unfold Obligations.SampleWordsDecode
  have hword (i : Instr) (h : i.wellFormed = true) : decode (encode i) = .spells i := decodeAfterEncodeIsIdentity i h
  exact ⟨hword (.rdb 0x1234#16) rfl, hword (.wrb 0xFFFF#16 0xFF#8) rfl, hword (.rdw 0x0001#16) rfl,
    hword (.stb true) rfl, hword .rds rfl, hword (.prs 255) rfl, hword (.rls 7) rfl,
    (reserved_iff_instr?_none _).1 (.inl (by decide)),
    (reserved_iff_instr?_none _).1 (.inr (.inr (.inr (.inl (by decide)))))⟩

theorem Decoded.instr?_eq_some {d : Decoded} {i : Instr} : d.instr? = some i ↔ d = .spells i := by
  cases d <;> simp

theorem decodeTableWord_eq_some {nbits w : Nat} {i : Instr} (h : decodeTableWord nbits w = some i) :
    decode (tableWord nbits w) = .spells i := by
  rw [decodeTableWord, Option.ite_none_right_eq_some] at h
  obtain ⟨-, hd⟩ := h
  exact Decoded.instr?_eq_some.1 hd

end Sys2Proof

namespace Sys2Proof.Machine

/-! ## The step -/

theorem step_of_spells {s : State} {w : CommandWord} {rest : List CommandWord} {i : Instr}
    (hc : s.commands = w :: rest) (hd : decode w = .spells i) : step s = exec i (s.setCommands rest) := by
  simp only [step, fetch_cons hc, hd]

/-- Settles O2, by the two parts of a step: the word taken, and the operation it spells. -/
theorem stepRunsDecodedOperation : Obligations.StepRunsDecodedOperation := by
  unfold Obligations.StepRunsDecodedOperation
  exact fun _ _ _ _ hc hd => step_of_spells hc hd

/-- Settles O3: there is no word to take. -/
theorem stepWithNothingIssuedStops : Obligations.StepWithNothingIssuedStops := by
  unfold Obligations.StepWithNothingIssuedStops
  intro s hc
  simp only [step, fetch_nil hc]

/-- Settles O4: taking the word issued ahead of the others leaves the state as it was. -/
theorem issuedWordRunsNext : Obligations.IssuedWordRunsNext := by
  unfold Obligations.IssuedWordRunsNext
  exact fun s _ _ _ h => step_of_spells (State.issue_commands s _) (decodeTableWord_eq_some h)

end Sys2Proof.Machine
end

section
/-! The address map (20_memory.md): the classifier's ranges (R29), the match and mask rows as a tiling of the
addresses (30_encoding.md R57), the router's arithmetic (section 5), and the canonical form of the store. -/

namespace Sys2Proof.Machine

/-! ## The classifier -/

/-- Settles O11, by the range table to which the classifier is tied. -/
theorem classifierIsRangeTable : Obligations.ClassifierIsRangeTable := by
  unfold Obligations.ClassifierIsRangeTable
  exact fun _ => ⟨classify_eq_iff_spans, classify_eq_iff_spans, classify_eq_iff_spans, classify_eq_iff_spans,
    classify_eq_iff_spans, classify_eq_iff_spans⟩

/-- A class is an interval: what lies between two of its addresses is in it. -/
theorem classify_of_between {a lo hi : Addr} {r : Region} (hlo : classify lo = r) (hhi : classify hi = r)
    (h : lo.toNat ≤ a.toNat) (h' : a.toNat ≤ hi.toNat) : classify a = r := by
  rw [classify_eq_iff_spans] at hlo hhi ⊢
  cases r <;> simp only [Region.spans] at hlo hhi ⊢ <;> omega

/-! ## A row as a block of addresses -/

/-- The number of addresses under the zero bits of a row's mask. -/
def MapRow.size (r : MapRow) : Nat := 0x10000 - r.mask.toNat

/-- The addresses from the row's match on, as many as its mask leaves free. -/
def MapRow.spans (r : MapRow) (n : Nat) : Prop := r.matchBits.toNat ≤ n ∧ n < r.matchBits.toNat + r.size

/-- The last address of a row: every bit free under the mask is one. -/
def MapRow.last (r : MapRow) : Addr := r.matchBits ||| ~~~r.mask

/-- The mask keeps the upper bits, and the match is a multiple of the block's size. -/
def MapRow.aligned (r : MapRow) : Prop :=
  ∃ k ≤ 16, r.mask = BitVec.allOnes 16 <<< k ∧ r.size = 2 ^ k ∧ r.matchBits.toNat % 2 ^ k = 0

/-- Match and mask of an aligned row is a range test. -/
theorem MapRow.matches_iff_spans {r : MapRow} (hr : r.aligned) (a : Addr) : r.matches a = true ↔ r.spans a.toNat := by
  obtain ⟨k, -, hmask, hsize, hmod⟩ := hr
  have hpos : 0 < 2 ^ k := Nat.two_pow_pos k
  have htop : a.toNat / 2 ^ k * 2 ^ k < 2 ^ 16 := (Nat.div_mul_le_self _ _).trans_lt a.isLt
  have hfirst : r.matchBits.toNat / 2 ^ k * 2 ^ k = r.matchBits.toNat :=
    Nat.div_mul_cancel (Nat.dvd_of_mod_eq_zero hmod)
  have hdiv : a.toNat / 2 ^ k * 2 ^ k = r.matchBits.toNat ↔ a.toNat / 2 ^ k = r.matchBits.toNat / 2 ^ k := by
    rw [← hfirst, Nat.mul_left_inj hpos.ne', hfirst]
  rw [MapRow.matches, beq_iff_eq, hmask, ← BitVec.shiftLeft_ushiftRight, ← BitVec.toNat_inj, BitVec.toNat_shiftLeft,
    BitVec.toNat_ushiftRight, Nat.shiftRight_eq_div_pow, Nat.shiftLeft_eq, Nat.mod_eq_of_lt htop, hdiv,
    Nat.div_eq_iff hpos, hfirst, MapRow.spans, hsize]
  omega

theorem MapRow.aligned_of_mem {r : MapRow} (hr : r ∈ mapRows) : r.aligned := by
  revert r
  unfold MapRow.aligned
  decide

/-! ## The rows tile the addresses -/

/-- The rows lie end to end: the first begins at `lo`, each next one where the one before it ends, and the last
ends at `hi`. -/
def tiles (hi : Nat) : Nat → List MapRow → Bool
  | lo, [] => lo == hi
  | lo, r :: rest => r.matchBits.toNat == lo && tiles hi (lo + r.size) rest

theorem tiles_cons {lo hi : Nat} {r : MapRow} {rest : List MapRow} :
    tiles hi lo (r :: rest) = true ↔ r.matchBits.toNat = lo ∧ tiles hi (lo + r.size) rest = true := by
  simp [tiles]

theorem le_of_tiles {hi : Nat} : ∀ {rows : List MapRow} {lo : Nat}, tiles hi lo rows = true →
    ∀ r ∈ rows, lo ≤ r.matchBits.toNat
  | p :: rest, lo, h, r, hr => by
    obtain ⟨hp, hrest⟩ := tiles_cons.1 h
    obtain rfl | hr := List.mem_cons.1 hr
    · exact hp.ge
    · exact Nat.le_of_add_right_le (le_of_tiles hrest r hr)

/-- Of rows end to end exactly one spans a number between the ends: the first, where the number lies below its
end, and one of the others, where it does not. -/
theorem existsUnique_spans_of_tiles {hi n : Nat} (hn : n < hi) : ∀ {rows : List MapRow} {lo : Nat},
    tiles hi lo rows = true → lo ≤ n → ∃! r : MapRow, r ∈ rows ∧ r.spans n
  | [], lo, h, hlo => by
    have : lo = hi := by simpa [tiles] using h
    omega
  | p :: rest, lo, h, hlo => by
    obtain ⟨hp, hrest⟩ := tiles_cons.1 h
    obtain hlt | hge := Nat.lt_or_ge n (lo + p.size)
    · refine ⟨p, ⟨List.mem_cons_self, hp.trans_le hlo, hp ▸ hlt⟩, fun r ⟨hr, hspan⟩ => ?_⟩
      obtain rfl | hr := List.mem_cons.1 hr
      · rfl
      · have hle := le_of_tiles hrest r hr
        exact absurd (hle.trans hspan.1) (Nat.not_le_of_lt hlt)
    · obtain ⟨r, ⟨hr, hspan⟩, huniq⟩ := existsUnique_spans_of_tiles hn hrest hge
      refine ⟨r, ⟨List.mem_cons_of_mem p hr, hspan⟩, fun q ⟨hq, hqspan⟩ => ?_⟩
      obtain rfl | hq := List.mem_cons.1 hq
      · exact absurd hqspan.2 (Nat.not_lt_of_ge (hp ▸ hge))
      · exact huniq q ⟨hq, hqspan⟩

theorem mapRows_tile : tiles 0x10000 0 mapRows = true := by decide

theorem existsUnique_matches (a : Addr) : ∃! r : MapRow, r ∈ mapRows ∧ r.matches a = true := by
  have hiff (r : MapRow) : r ∈ mapRows ∧ r.matches a = true ↔ r ∈ mapRows ∧ r.spans a.toNat :=
    and_congr_right fun hr => r.matches_iff_spans (r.aligned_of_mem hr) a
  simp only [hiff]
  exact existsUnique_spans_of_tiles a.isLt mapRows_tile (Nat.zero_le _)

/-- The first and the last address of a row are of the row's class, so all of its addresses are. -/
theorem MapRow.region_eq_classify {a : Addr} {r : MapRow} (hr : r ∈ mapRows) (ha : r.matches a = true) :
    r.region = classify a := by
  have hends : ∀ r ∈ mapRows, classify r.matchBits = r.region ∧ classify r.last = r.region ∧
      r.last.toNat + 1 = r.matchBits.toNat + r.size := by
    decide
  obtain ⟨hfirst, hlast, hsize⟩ := hends r hr
  obtain ⟨hlo, hhi⟩ := (r.matches_iff_spans (r.aligned_of_mem hr) a).1 ha
  exact (classify_of_between hfirst hlast hlo (by omega)).symm

/-- Settles O13: the rows are aligned blocks that lie end to end from 0x0000 to 0xFFFF. -/
theorem addressMapRowsCoverOnce : Obligations.AddressMapRowsCoverOnce := by
  unfold Obligations.AddressMapRowsCoverOnce
  exact ⟨by decide, existsUnique_matches, fun _ _ hr ha => MapRow.region_eq_classify hr ha⟩

/-! ## The router's arithmetic -/

theorem joinBytes_toNat (high low : Byte) : (joinBytes high low).toNat = high.toNat * 0x100 + low.toNat := by
  rw [joinBytes_eq, BitVec.toNat_append, ← Nat.shiftLeft_add_eq_or_of_lt low.isLt, Nat.shiftLeft_eq]

/-- Settles O15: the window begins at its base, and the two bytes of a word do not overlap. -/
theorem routerArithmeticIsExact : Obligations.RouterArithmeticIsExact := by
  unfold Obligations.RouterArithmeticIsExact
  refine ⟨fun a lo _ => ?_, nextAddr_toNat, joinBytes_toNat⟩
  exact BitVec.toNat_sub_of_le (BitVec.le_def.2 lo)

/-! ## The canonical form of the store -/

/-- A canonical list reads its first listed cell as listed, which no list that begins above it does. -/
theorem Memory.head_ge_of_read_eq {k k' lo lo' : Nat} {v v' : Byte} {rest rest' : Memory}
    (h : Memory.wfFrom lo ((k, v) :: rest) = true) (h' : Memory.wfFrom lo' ((k', v') :: rest') = true)
    (hread : Memory.read ((k, v) :: rest) k = Memory.read ((k', v') :: rest') k) : k' ≤ k := by
  obtain ⟨-, -, hv, -⟩ := Memory.wfFrom_cons.1 h
  obtain ⟨-, hk', hv', hrest'⟩ := Memory.wfFrom_cons.1 h'
  by_contra hlt
  have hfrom := Memory.wfFrom_cons.2 ⟨le_rfl, hk', hv', hrest'⟩
  rw [Memory.read_below hfrom (Nat.lt_of_not_le hlt), Memory.read, if_pos rfl] at hread
  exact hv hread

/-- Two canonical lists that read alike begin with the same cell, and behind it they read alike. -/
theorem Memory.eq_of_wfFrom : ∀ {m m' : Memory} {lo lo' : Nat}, Memory.wfFrom lo m = true →
    Memory.wfFrom lo' m' = true → (∀ i, Memory.read m i = Memory.read m' i) → m = m'
  | [], [], _, _, _, _, _ => rfl
  | [], (k, v) :: rest, _, _, _, h', hread => by
    obtain ⟨-, -, hv, -⟩ := Memory.wfFrom_cons.1 h'
    exact absurd (by simpa [Memory.read] using (hread k).symm) hv
  | (k, v) :: rest, [], _, _, h, _, hread => by
    obtain ⟨-, -, hv, -⟩ := Memory.wfFrom_cons.1 h
    exact absurd (by simpa [Memory.read] using hread k) hv
  | (k, v) :: rest, (k', v') :: rest', _, _, h, h', hread => by
    obtain rfl : k = k' := Nat.le_antisymm (Memory.head_ge_of_read_eq h' h (hread k').symm)
      (Memory.head_ge_of_read_eq h h' (hread k))
    obtain rfl : v = v' := by simpa [Memory.read] using hread k
    obtain ⟨-, -, -, hrest⟩ := Memory.wfFrom_cons.1 h
    obtain ⟨-, -, -, hrest'⟩ := Memory.wfFrom_cons.1 h'
    have htail (i : Nat) : Memory.read rest i = Memory.read rest' i := by
      by_cases hi : k = i
      · subst hi
        rw [Memory.read_below hrest (Nat.lt_succ_self k), Memory.read_below hrest' (Nat.lt_succ_self k)]
      · simpa [Memory.read, hi] using hread i
    rw [Memory.eq_of_wfFrom hrest hrest' htail]

/-- Settles O18, by induction on the two lists. -/
theorem canonicalStoresReadingAlikeAreEqual : Obligations.CanonicalStoresReadingAlikeAreEqual := by
  unfold Obligations.CanonicalStoresReadingAlikeAreEqual
  exact fun _ _ h h' hread => Memory.eq_of_wfFrom h h' hread

end Sys2Proof.Machine
end

section
/-! The environment (00_scope.md R8): the moments an operation uses up, and what the owner's duty
(70_reset_and_hazards.md R113) leaves of the faults, in one operation and over every run. -/

namespace Sys2Proof.Machine

/-! ## One moment for each event -/

/-- From `s` to `t` as many moments were dropped and free values drawn as events were emitted. -/
def State.UsesMoments (s t : State) : Prop :=
  ∃ es, t.events = s.events ++ es ∧ t.env = s.env.drop es.length ∧ t.draws = s.draws + es.length

theorem State.UsesMoments.of_no_event {s t : State} (he : t.events = s.events) (hm : t.env = s.env)
    (hd : t.draws = s.draws) : s.UsesMoments t :=
  ⟨[], by simp [he], hm, hd⟩

theorem State.UsesMoments.afterEvent {s t : State} (h : s.UsesMoments t) (e : Event) :
    s.UsesMoments (t.afterEvent e) := by
  obtain ⟨es, he, hm, hd⟩ := h
  refine ⟨es ++ [e], ?_, ?_, ?_⟩
  · rw [State.afterEvent_events, he, List.append_assoc]
  · simp [State.afterEvent, hm, List.tail_drop]
  · simp [State.afterEvent, hd, Nat.add_assoc]

theorem Effect.usesMoments {i : Instr} {s t : State} (h : Effect s i t) : s.UsesMoments t := by
  have hrefl : s.UsesMoments s := .of_no_event rfl rfl rfl
  cases h with
  | read | word | store | strobe | bit | press | release => exact .of_no_event rfl rfl rfl
  | readEvent _ e | writeEvent _ _ e | wordEvent _ e => exact hrefl.afterEvent e
  | wordEvents _ e e' => exact (hrefl.afterEvent e).afterEvent e'

/-- Settles O24, by the accesses each way of ending an operation has made. -/
theorem delegatedAccessUsesOneMoment : Obligations.DelegatedAccessUsesOneMoment := by
  unfold Obligations.DelegatedAccessUsesOneMoment
  intro i s t h
  have hrefl : s.UsesMoments s := .of_no_event rfl rfl rfl
  obtain ⟨-, rfl⟩ | ⟨-, u, v, hu, rfl⟩ | ⟨-, u, f, rfl | ⟨a, e, rfl, rfl⟩, rfl⟩ := exec_next_cases h
  · exact hrefl
  · exact hu.usesMoments
  · exact hrefl
  · exact hrefl.afterEvent e

/-! ## The owner's duty at one access -/

theorem State.dutyKept.availPpu {s : State} (h : s.dutyKept) : s.availPpu = true := by
  unfold State.availPpu
  split
  · rfl
  · next m rest he => exact (h m (he ▸ List.mem_cons_self)).1

theorem State.dutyKept.availMap {s : State} (h : s.dutyKept) : s.availMap = true := by
  unfold State.availMap
  split
  · rfl
  · next m rest he => exact (h m (he ▸ List.mem_cons_self)).2

theorem State.dutyKept.afterEvent {s : State} (h : s.dutyKept) (e : Event) : (s.afterEvent e).dutyKept :=
  fun m hm => h m (List.mem_of_mem_tail hm)

/-- The causes of 60_exceptions.md R90 that no environment brings about and no bound check raises. -/
def Cause.ofOperand (c : Cause) : Prop := c = .unimplementedRegion ∨ c = .invalidAddress ∨ c = .buttonIndex

/-- How part of an operation ends with the duty kept: at a `raise` exactly where its operand is `fatal`, with a
cause of the operand's own, and the duty stays kept. -/
inductive Access.DutyEnd {α : Type} (fatal : Prop) : Access α → Prop where
  | done {v : α} {s : State} : ¬ fatal → s.dutyKept → DutyEnd fatal (.done v s)
  | raised {f : FaultInfo} {s : State} : fatal → f.cause.ofOperand → s.dutyKept → DutyEnd fatal (.raised f s)

theorem Access.DutyEnd.andThen {α β : Type} {p q : Prop} {x : Access α} {k : α → State → Access β}
    (hx : x.DutyEnd p) (hk : ∀ v s, s.dutyKept → (k v s).DutyEnd q) : (x.andThen k).DutyEnd (p ∨ q) := by
  cases hx with
  | raised hp hf hs => exact .raised (.inl hp) hf hs
  | @done v s hp hs =>
    have hy := hk v s hs
    rw [Access.andThen_done]
    generalize k v s = y at hy
    cases hy with
    | done hq ht => exact .done (not_or.2 ⟨hp, hq⟩) ht
    | raised hq hf ht => exact .raised (.inr hq) hf ht

/-- A part followed by one that never raises. -/
theorem Access.DutyEnd.andThen_done {α β : Type} {p : Prop} {x : Access α} {form : α → State → β}
    {g : α → State → State} (hx : x.DutyEnd p) (hg : ∀ v s, s.dutyKept → (g v s).dutyKept) :
    (x.andThen fun v s => .done (form v s) (g v s)).DutyEnd p := by
  rw [← or_false p]
  exact hx.andThen fun v s hs => .done not_false (hg v s hs)

theorem Access.DutyEnd.as {α : Type} {p : Prop} {x : Access α} (hx : x.DutyEnd p) (form : α → Value) :
    (x.as form).DutyEnd p :=
  hx.andThen_done fun _ _ hs => hs

/-- The ranges of the store, the Picture Unit's registers and the Mapper hold no fatal address. -/
theorem not_fatal_of_range {a : Addr} (h : a.toNat ≤ 0x3FFF ∨ 0x4020 ≤ a.toNat ∧ a.toNat ≤ 0xFFFE) :
    ¬ a.fatal := by
  rintro (hio | rfl)
  · omega
  · simp at h

theorem readByte_dutyEnd {s : State} (hs : s.dutyKept) (a : Addr) : (readByte a s).DutyEnd a.fatal := by
  have hc := readByte_cases a s
  generalize readByte a s = x at hc
  cases hc with
  | store hi => exact .done (not_fatal_of_range (.inl (by omega))) hs
  | picture lo hi => exact .done (not_fatal_of_range (.inl hi)) (hs.afterEvent _)
  | mapper lo hi => exact .done (not_fatal_of_range (.inr ⟨lo, hi⟩)) (hs.afterEvent _)
  | pictureGone _ _ hgone => simp [hs.availPpu] at hgone
  | mapperGone _ _ hgone => simp [hs.availMap] at hgone
  | unimplemented lo hi => exact .raised (.inl ⟨lo, hi⟩) (.inl rfl) hs
  | invalid ha => exact .raised (.inr ha) (.inr (.inl rfl)) hs

theorem writeByte_dutyEnd {s : State} (hs : s.dutyKept) (a : Addr) (v : Byte) :
    (writeByte a v s).DutyEnd a.fatal := by
  have hc := writeByte_cases a v s
  generalize writeByte a v s = x at hc
  cases hc with
  | store hi => exact .done (not_fatal_of_range (.inl (by omega))) hs
  | picture lo hi => exact .done (not_fatal_of_range (.inl hi)) (hs.afterEvent _)
  | mapper lo hi => exact .done (not_fatal_of_range (.inr ⟨lo, hi⟩)) (hs.afterEvent _)
  | pictureGone _ _ hgone => simp [hs.availPpu] at hgone
  | mapperGone _ _ hgone => simp [hs.availMap] at hgone
  | unimplemented lo hi => exact .raised (.inl ⟨lo, hi⟩) (.inl rfl) hs
  | invalid ha => exact .raised (.inr ha) (.inr (.inl rfl)) hs

theorem checkButton_dutyEnd {s : State} (hs : s.dutyKept) (index : Nat) :
    (checkButton index s).DutyEnd (7 < index) := by
  obtain hi | hi := Nat.lt_or_ge index 8
  · rw [checkButton_legal hi]
    exact .done (by omega) hs
  · rw [checkButton_illegal hi]
    exact .raised hi (.inr (.inr rfl)) hs

/-! ## The owner's duty over one operation -/

/-- A byte address or the button index of the operation is one whose every use is fatal (70_reset_and_hazards.md
section 3). -/
def fatalOperand : Instr → Prop
  | .rdb a => a.fatal
  | .wrb a _ => a.fatal
  | .rdw a => a.fatal ∨ (nextAddr a).fatal
  | .stb _ => False
  | .rds => False
  | .prs index => 7 < index
  | .rls index => 7 < index

theorem fatalOperand_iff (i : Instr) :
    fatalOperand i ↔ (∃ a ∈ i.addresses, Addr.fatal a) ∨ ∃ index, i.button? = some index ∧ 7 < index := by
  cases i <;> simp [fatalOperand, Instr.addresses, Instr.button?]

theorem bodyOf_dutyEnd {s : State} (hs : s.dutyKept) (i : Instr) : (bodyOf i s).DutyEnd (fatalOperand i) := by
  cases i with
  | rdb a => exact (readByte_dutyEnd hs a).as .byte
  | wrb a v => exact (writeByte_dutyEnd hs a v).as fun _ => .absent
  | rdw a =>
    have hword : (readWord a s).DutyEnd (a.fatal ∨ (nextAddr a).fatal) :=
      (readByte_dutyEnd hs a).andThen fun _ _ ht => (readByte_dutyEnd ht (nextAddr a)).andThen_done fun _ _ hu => hu
    exact hword.as .word
  | stb on | rds => exact .done not_false hs
  | prs index | rls index => exact (checkButton_dutyEnd hs index).andThen_done fun _ _ ht => ht

/-- An operation of a running block with the duty kept ends with the duty kept, and with a fault recorded exactly
where an operand is fatal; the cause is then the operand's own. -/
theorem exec_of_dutyKept {i : Instr} {s t : State} (hv : s.fault.valid = false) (hs : s.dutyKept)
    (h : exec i s = .next t) :
    t.dutyKept ∧ (t.fault.valid = true ↔ fatalOperand i) ∧
      (t.fault.valid = true → ∃ c : Cause, c.ofOperand ∧ t.fault.cause = c.code) := by
  obtain ⟨hv', -⟩ | ⟨-, v, u, hb, he⟩ | ⟨-, f, u, hb, he⟩ := exec_cases i s
  · simp [hv] at hv'
  · obtain rfl := Host.Outcome.next.inj (h.symm.trans he)
    have hfault : u.fault.valid = false := by rw [(bodyOf_done hb).bodyReaches.fault, hv]
    have hend := bodyOf_dutyEnd hs i
    rw [hb] at hend
    cases hend with
    | done hi hu => exact ⟨hu, iff_of_false (by simp [hfault]) hi, by simp [hfault]⟩
  · obtain rfl := Host.Outcome.next.inj (h.symm.trans he)
    have hend := bodyOf_dutyEnd hs i
    rw [hb] at hend
    cases hend with
    | raised hi hf hu => exact ⟨hu, iff_of_true rfl hi, fun _ => ⟨f.cause, hf, rfl⟩⟩

/-- Settles O38: with both lines high only the operands can stop the body. -/
theorem dutyKeptHaltsExactlyOnFatalOperands : Obligations.DutyKeptHaltsExactlyOnFatalOperands := by
  unfold Obligations.DutyKeptHaltsExactlyOnFatalOperands
  intro i s t hv hs h
  obtain ⟨-, hiff, -⟩ := exec_of_dutyKept hv hs h
  exact hiff.trans (fatalOperand_iff i)

/-! ## The owner's duty over a run -/

/-- The duty is kept, and a recorded fault has one of the three causes that need no unresolved reference. -/
structure State.DutySafe (s : State) : Prop where
  duty : s.dutyKept
  cause : s.fault.valid = true → s.fault.cause = 1#3 ∨ s.fault.cause = 2#3 ∨ s.fault.cause = 4#3

theorem Cause.code_of_ofOperand {c : Cause} (h : c.ofOperand) : c.code = 1#3 ∨ c.code = 2#3 ∨ c.code = 4#3 := by
  obtain rfl | rfl | rfl := h <;> decide

theorem exec_dutySafe {i : Instr} {s t : State} (hs : s.DutySafe) (h : exec i s = .next t) : t.DutySafe := by
  cases hv : s.fault.valid with
  | true =>
    obtain rfl := Host.Outcome.next.inj (h.symm.trans (exec_halted i hv))
    exact ⟨hs.duty, hs.cause⟩
  | false =>
    obtain ⟨hduty, -, hcause⟩ := exec_of_dutyKept hv hs.duty h
    refine ⟨hduty, fun ht => ?_⟩
    obtain ⟨c, hc, hcode⟩ := hcause ht
    rw [hcode]
    exact Cause.code_of_ofOperand hc

theorem step_dutySafe {s t : State} (hs : s.DutySafe) (h : step s = .next t) : t.DutySafe := by
  obtain ⟨w, rest, why, -, -, rfl⟩ | ⟨w, rest, i, -, -, hp⟩ := step_next_cases h
  · exact ⟨hs.duty, hs.cause⟩
  · rw [← exec_eq_perform] at hp
    exact exec_dutySafe (s := s.setCommands rest) ⟨hs.duty, hs.cause⟩ hp

/-- What every step keeps holds after every run. -/
theorem run_keeps {P : State → Prop} (hstep : ∀ s t, P s → step s = .next t → P t) {k : Nat} {s t : State}
    (hs : P s) (h : Host.Core.run Sys2Proof.core k s = .next t) : P t := by
  induction k generalizing s with
  | zero =>
    obtain rfl : s = t := Host.Outcome.next.inj h
    exact hs
  | succ k ih =>
    obtain ⟨u, hu, hr⟩ := run_of_succ h
    exact ih (hstep s u hs hu) hr

/-- Settles O39: a running state with the duty kept is safe, and every step keeps it so. -/
theorem dutyKeptRunsFaultOnlyThreeWays : Obligations.DutyKeptRunsFaultOnlyThreeWays := by
  unfold Obligations.DutyKeptRunsFaultOnlyThreeWays
  intro k s t hv hs h
  have hsafe : s.DutySafe := ⟨hs, by simp [hv]⟩
  have ht := run_keeps (fun _ _ => step_dutySafe) hsafe h
  exact ⟨ht.duty, ht.cause⟩

end Sys2Proof.Machine
end

section
/-! The machine's invariant (10_state.md section 5, 60_exceptions.md section 1, 43_component_ports.md R85, R86): it
holds at reset and every step keeps it. -/

namespace Sys2Proof.Machine

/-- Settles O40: the store and the event history are empty, the cursor is 0 and no fault is recorded. -/
theorem invariantHoldsAtReset : Obligations.InvariantHoldsAtReset := by
  unfold Obligations.InvariantHoldsAtReset
  exact ⟨rfl, Nat.zero_le 8, nofun, nofun, rfl, nofun⟩

/-! ## One rule per change of the state -/

section
variable {s : State}

theorem State.Inv.setCommands (h : s.Inv) (ws : List CommandWord) : (s.setCommands ws).Inv :=
  ⟨h.ramWf, h.cursor, h.pinned, h.fault, h.refs, h.events⟩

theorem State.Inv.respond (h : s.Inv) (r : Result) : (s.respond r).Inv :=
  ⟨h.ramWf, h.cursor, h.pinned, h.fault, h.refs, h.events⟩

theorem State.Inv.setSnapshot (h : s.Inv) (v : Byte) : (s.setSnapshot v).Inv :=
  ⟨h.ramWf, h.cursor, h.pinned, h.fault, h.refs, h.events⟩

theorem State.Inv.writeRam (h : s.Inv) {index : Nat} (hi : index < 0x800) (v : Byte) :
    (s.setRam (s.ram.write index v)).Inv :=
  ⟨Memory.write_wf h.ramWf hi v, h.cursor, h.pinned, h.fault, h.refs, h.events⟩

theorem State.Inv.afterEvent (h : s.Inv) {e : Event} (he : e.legal) : (s.afterEvent e).Inv where
  ramWf := h.ramWf
  cursor := h.cursor
  pinned := h.pinned
  fault := h.fault
  refs := h.refs
  events e' he' := by
    obtain he' | rfl : e' ∈ s.events ∨ e' = e := by simpa using he'
    · exact h.events e' he'
    · exact he

theorem State.Inv.takeFault (h : s.Inv) {f : FaultInfo} (hf : f.record.legal) : (s.takeFault f).Inv :=
  ⟨h.ramWf, h.cursor, h.pinned, fun _ => hf, h.refs, h.events⟩

/-! ## One rule per operation -/

theorem Effect.keepsInv {i : Instr} {t : State} (h : Effect s i t) (hs : s.Inv) : t.Inv := by
  have hk := h.keepsCursor
  cases h with
  | read | word => exact hs
  | readEvent _ e he | writeEvent _ _ e he | wordEvent _ e he => exact hs.afterEvent he
  | wordEvents _ e e' he he' => exact (hs.afterEvent he).afterEvent he'
  | store a v => exact hs.writeRam (Nat.mod_lt _ (by decide)) v
  | press | release => exact hs.setSnapshot _
  | strobe | bit => exact ⟨hs.ramWf, hk.inRange hs.cursor, hk.pinned hs.pinned, hs.fault, hs.refs, hs.events⟩

/-- A body that stopped has made at most a legal access, and for an operation that a word spells its fault is a row
of 60_exceptions.md R90. -/
theorem exec_keepsInv {i : Instr} {t : State} (hi : i.wellFormed = true) (hs : s.Inv) (h : exec i s = .next t) :
    t.Inv := by
  obtain ⟨-, he⟩ | ⟨-, v, u, hb, he⟩ | ⟨-, f, u, hb, he⟩ := exec_cases i s <;>
    obtain rfl := Host.Outcome.next.inj (h.symm.trans he)
  · exact hs.respond .refused
  · exact ((bodyOf_done hb).keepsInv hs).respond (.ok v)
  · obtain ⟨rfl | ⟨a, e, -, hlegal, rfl⟩, hf, -⟩ := bodyOf_raised hb
    · exact hs.takeFault (hf hi)
    · exact (hs.afterEvent hlegal).takeFault (hf hi)

/-- A step performs only an operation that a word spells, so a well-formed one. -/
theorem step_keepsInv {t : State} (hs : s.Inv) (h : step s = .next t) : t.Inv := by
  obtain ⟨w, rest, why, -, -, rfl⟩ | ⟨w, rest, i, -, hd, hp⟩ := step_next_cases h
  · exact (hs.setCommands rest).respond .refused
  · rw [← exec_eq_perform] at hp
    exact exec_keepsInv (wellFormed_of_spelledBy (spelledBy_of_decode hd)) (hs.setCommands rest) hp

end

/-- Settles O42, by the operation the step performs or the word it refuses. -/
theorem stepKeepsInvariant : Obligations.StepKeepsInvariant := by
  unfold Obligations.StepKeepsInvariant
  exact fun _ _ hs h => step_keepsInv hs h

end Sys2Proof.Machine
end

section
/-! What the two sub-blocks and the two agents do not share: the router and the peripheral (20_memory.md section 2,
10_state.md section 5), and the Button agent and the Driver (00_scope.md section 5). -/

namespace Sys2Proof.Machine

/-! ## The router does not see the peripheral -/

/-- What a byte read can do is what it does. -/
theorem ByteRead.eq {a : Addr} {s : State} {x : Access Byte} (h : ByteRead a s x) : readByte a s = x := by
  cases h with
  | store hi => exact readByte_ram hi s
  | picture lo hi hp => exact readByte_ppu hp lo hi
  | pictureGone lo hi hp => exact readByte_ppu_gone hp lo hi
  | unimplemented lo hi => exact readByte_unimplemented lo hi s
  | mapper lo hi hp => exact readByte_mapper hp lo hi
  | mapperGone lo hi hp => exact readByte_mapper_gone hp lo hi
  | invalid ha => subst ha; exact readByte_invalid s

theorem ByteWrite.eq {a : Addr} {v : Byte} {s : State} {x : Access Unit} (h : ByteWrite a v s x) :
    writeByte a v s = x := by
  cases h with
  | store hi => exact writeByte_ram hi v s
  | picture lo hi hp => exact writeByte_ppu hp lo hi v
  | pictureGone lo hi hp => exact writeByte_ppu_gone hp lo hi v
  | unimplemented lo hi => exact writeByte_unimplemented lo hi v s
  | mapper lo hi hp => exact writeByte_mapper hp lo hi v
  | mapperGone lo hi hp => exact writeByte_mapper_gone hp lo hi v
  | invalid ha => subst ha; exact writeByte_invalid v s

section
variable (snapshot : Byte) (cursor : BitVec 4) (strobe : Bool)

theorem State.withPeripheral_keepsEnding : KeepsEnding (State.withPeripheral · snapshot cursor strobe) :=
  ⟨fun _ => rfl, fun _ _ => rfl, fun _ _ => rfl⟩

/-- Each way a byte read can go asks the address, the store and the environment alone. -/
theorem readByte_withPeripheral (a : Addr) :
    Commutes (State.withPeripheral · snapshot cursor strobe) (readByte a) := by
  intro s
  apply ByteRead.eq
  have hc := readByte_cases a s
  generalize readByte a s = x at hc
  cases hc with
  | store hi => exact .store hi
  | picture lo hi hp => exact .picture lo hi hp
  | pictureGone lo hi hp => exact .pictureGone lo hi hp
  | unimplemented lo hi => exact .unimplemented lo hi
  | mapper lo hi hp => exact .mapper lo hi hp
  | mapperGone lo hi hp => exact .mapperGone lo hi hp
  | invalid ha => exact .invalid ha

theorem writeByte_withPeripheral (a : Addr) (v : Byte) :
    Commutes (State.withPeripheral · snapshot cursor strobe) (writeByte a v) := by
  intro s
  apply ByteWrite.eq
  have hc := writeByte_cases a v s
  generalize writeByte a v s = x at hc
  cases hc with
  | store hi => exact .store hi
  | picture lo hi hp => exact .picture lo hi hp
  | pictureGone lo hi hp => exact .pictureGone lo hi hp
  | unimplemented lo hi => exact .unimplemented lo hi
  | mapper lo hi hp => exact .mapper lo hi hp
  | mapperGone lo hi hp => exact .mapperGone lo hi hp
  | invalid ha => exact .invalid ha

theorem bodyOf_withPeripheral {i : Instr} (hi : i.subBlock = .router) :
    Commutes (State.withPeripheral · snapshot cursor strobe) (bodyOf i) := by
  have hread := readByte_withPeripheral snapshot cursor strobe
  cases i with
  | rdb a => exact (hread a).as .byte
  | wrb a v => exact (writeByte_withPeripheral snapshot cursor strobe a v).as fun _ => .absent
  | rdw a =>
    have hword : Commutes (State.withPeripheral · snapshot cursor strobe) (readWord a) :=
      (hread a).andThen fun _ => (hread (nextAddr a)).andThen fun _ _ => rfl
    exact hword.as .word
  | stb | rds | prs | rls => cases hi

end

/-- Settles O45: no byte access sees the peripheral's three fields, and ending an operation does not either. -/
theorem routerIgnoresPeripheral : Obligations.RouterIgnoresPeripheral := by
  unfold Obligations.RouterIgnoresPeripheral
  exact fun _ _ _ snapshot cursor strobe hi h => exec_of_commutes
    (State.withPeripheral_keepsEnding snapshot cursor strobe) (bodyOf_withPeripheral snapshot cursor strobe hi) h

/-! ## The peripheral does not see the router -/

section
variable (ram : Memory) (events : List Event) (env : List Moment) (draws : Nat)

theorem State.withRouter_keepsEnding : KeepsEnding (State.withRouter · ram events env draws) :=
  ⟨fun _ => rfl, fun _ _ => rfl, fun _ _ => rfl⟩

theorem checkButton_withRouter (index : Nat) :
    Commutes (State.withRouter · ram events env draws) (checkButton index) := by
  intro s
  obtain hi | hi := Nat.lt_or_ge index 8
  · rw [checkButton_legal hi, checkButton_legal hi]; rfl
  · rw [checkButton_illegal hi, checkButton_illegal hi]; rfl

theorem bodyOf_withRouter {i : Instr} (hi : i.subBlock = .peripheral) :
    Commutes (State.withRouter · ram events env draws) (bodyOf i) := by
  cases i with
  | rdb | wrb | rdw => cases hi
  | stb on | rds => exact fun _ => rfl
  | prs index | rls index => exact (checkButton_withRouter ram events env draws index).andThen fun _ _ => rfl

end

/-- Settles O46: a body of the peripheral asks its own three fields and the index alone. -/
theorem peripheralIgnoresRouter : Obligations.PeripheralIgnoresRouter := by
  unfold Obligations.PeripheralIgnoresRouter
  exact fun _ _ _ ram events env draws hi h => exec_of_commutes
    (State.withRouter_keepsEnding ram events env draws) (bodyOf_withRouter ram events env draws hi) h

/-! ## The two agents -/

theorem exec_button_eq {i : Instr} {s t : State} (hi : i.agent = .button) (h : exec i s = .next t) :
    t = { s with snapshot := t.snapshot, fault := t.fault, outcomes := t.outcomes } := by
  obtain ⟨-, rfl⟩ | ⟨-, u, v, hu, rfl⟩ | ⟨-, u, f, rfl | ⟨a, e, rfl, rfl⟩, rfl⟩ := exec_next_cases h
  · rfl
  · cases hu with
    | press | release => rfl
    | read | readEvent | store | writeEvent | word | wordEvent | wordEvents | strobe | bit => cases hi
  · rfl
  · cases hi

/-- Only a press and a release, which are the Button agent's, write the snapshot. -/
theorem exec_driver_snapshot {i : Instr} {s t : State} (hi : i.agent = .driver) (h : exec i s = .next t) :
    t.snapshot = s.snapshot := by
  refine (exec_frame h).snapshot fun index => ⟨?_, ?_⟩ <;>
  · rintro rfl
    cases hi

/-- Settles O48, by the effects of a press and a release and by the frame of every other operation. -/
theorem agentsShareOnlySnapshot : Obligations.AgentsShareOnlySnapshot := by
  unfold Obligations.AgentsShareOnlySnapshot
  exact fun _ _ _ h => ⟨fun hi => exec_button_eq hi h, fun hi => exec_driver_snapshot hi h⟩

/-! ## An index that no word spells -/

/-- Settles O49: the index check is the same for an index of any size, and `info` takes its low 16 bits. -/
theorem oversizedButtonIndexFaults : Obligations.OversizedButtonIndexFaults := by
  unfold Obligations.OversizedButtonIndexFaults
  intro index s hv hlarge i hi
  have hinfo : BitVec.ofNat 16 (index % 0x10000) = BitVec.ofNat 16 index := by
    apply BitVec.eq_of_toNat_eq
    simp
  rw [hinfo]
  exact exec_button_illegal hv (by omega) hi

end Sys2Proof.Machine
end
